-- ==== Sys2Proof/Word.lean ====
section
/-!
DEFINITION. The word types of the CHIP-8 core (00_scope.md R6, R8): bytes, 16-bit words, the
immediates' widths, and register numbers. All quantities are unsigned (R8).
-/

namespace Sys2Proof

/-- One byte: a general register, a timer, a memory location (R6 `REG_W`). -/
abbrev Byte := BitVec 8

/-- 16 bits: an instruction word, `I`, `PC`, a stack entry (R6 `INSN_W`, `I_W`, `PC_W`). -/
abbrev Word := BitVec 16

/-- The 4-bit immediate `n` (30_encoding.md R71). -/
abbrev Imm4 := BitVec 4

/-- The 8-bit immediate `nn` (30_encoding.md R71). -/
abbrev Imm8 := BitVec 8

/-- The 12-bit immediate `nnn` (30_encoding.md R71). -/
abbrev Imm12 := BitVec 12

/-- A register number 0 to 15; every value is legal (30_encoding.md R73). -/
abbrev Reg := Fin 16

/-- The number of `V[15]`, the flag register VF (10_state.md R21). -/
abbrev VF : Reg := 15

end Sys2Proof
end

