-- ==== Sys2Proof/Syntax.lean ====
section
/-!
DEFINITION. The instructions of the CHIP-8 core: one constructor per row of
spec/opcode_table.json (30_encoding.md R75), in the table's order, with the fields of R71.
-/

namespace Sys2Proof

/-- The 35 instructions (30_encoding.md R75). `x`, `y` are register numbers, `n`, `nn`, `nnn` the
immediates of R73. -/
inductive Instr where
  /-- `00E0`: clear the framebuffer (R150). -/
  | cls
  /-- `00EE`: return (R100). -/
  | ret
  /-- `0nnn`: the no-op system slot (R101); `nnn` is ignored. -/
  | sys (nnn : Imm12)
  /-- `1nnn`: jump (R102). -/
  | jp (nnn : Imm12)
  /-- `2nnn`: call (R103). -/
  | call (nnn : Imm12)
  /-- `3xnn`: skip if equal to a constant (R110). -/
  | sek (x : Reg) (nn : Imm8)
  /-- `4xnn`: skip if not equal to a constant (R111). -/
  | snek (x : Reg) (nn : Imm8)
  /-- `5xy0`: skip if registers are equal (R112). -/
  | se (x y : Reg)
  /-- `6xnn`: load a constant (R121). -/
  | ldk (x : Reg) (nn : Imm8)
  /-- `7xnn`: add a constant, no flag (R122). -/
  | addk (x : Reg) (nn : Imm8)
  /-- `8xy0`: copy (R123). -/
  | mov (x y : Reg)
  /-- `8xy1`: bitwise OR (R124). -/
  | or (x y : Reg)
  /-- `8xy2`: bitwise AND (R125). -/
  | and (x y : Reg)
  /-- `8xy3`: bitwise exclusive OR (R126). -/
  | xor (x y : Reg)
  /-- `8xy4`: add with carry out (R127). -/
  | add (x y : Reg)
  /-- `8xy5`: subtract (R128). -/
  | sub (x y : Reg)
  /-- `8xy6`: shift right (R129); `y` is encoded and ignored. -/
  | shr (x y : Reg)
  /-- `8xy7`: reverse subtract (R130). -/
  | subn (x y : Reg)
  /-- `8xyE`: shift left (R131); `y` is encoded and ignored. -/
  | shl (x y : Reg)
  /-- `9xy0`: skip if registers differ (R113). -/
  | sne (x y : Reg)
  /-- `Annn`: load the index register (R140). -/
  | ldi (nnn : Imm12)
  /-- `Bnnn`: jump with offset V[0] (R104). -/
  | jpv0 (nnn : Imm12)
  /-- `Cxnn`: masked random byte (R133). -/
  | rnd (x : Reg) (nn : Imm8)
  /-- `Dxyn`: draw a sprite of `n` rows (R151). -/
  | drw (x y : Reg) (n : Imm4)
  /-- `Ex9E`: skip if the key is pressed (R161). -/
  | skp (x : Reg)
  /-- `ExA1`: skip if the key is not pressed (R162). -/
  | sknp (x : Reg)
  /-- `Fx07`: read the delay timer (R164). -/
  | getdt (x : Reg)
  /-- `Fx0A`: wait for a key (R163). -/
  | waitk (x : Reg)
  /-- `Fx15`: set the delay timer (R165). -/
  | setdt (x : Reg)
  /-- `Fx18`: set the sound timer (R166). -/
  | setst (x : Reg)
  /-- `Fx1E`: add a register to the index register (R141). -/
  | addi (x : Reg)
  /-- `Fx29`: point the index register at a glyph (R142). -/
  | font (x : Reg)
  /-- `Fx33`: store three decimal digits (R143). -/
  | bcd (x : Reg)
  /-- `Fx55`: store V[0..x] (R144). -/
  | stm (x : Reg)
  /-- `Fx65`: load V[0..x] (R145). -/
  | ldm (x : Reg)
deriving DecidableEq, Repr

end Sys2Proof
end

