-- ==== Sys2Proof/WellFormed.lean ====
section
/-!
DEFINITION. Well-formed instructions. The widths of the fields are in their types; the one check
left is that the two words 0x00E0 and 0x00EE are not `0nnn` (30_encoding.md R74, R78: the two
FIXED rows take precedence over `SYS`).
-/

namespace Sys2Proof

/-- `i` is an instruction that some word decodes to (30_encoding.md R75, `except` of row SYS). -/
def Instr.wf (i : Instr) : Bool :=
  match i with
  | .sys nnn => nnn != 0x0E0#12 && nnn != 0x0EE#12
  | .cls | .ret | .jp _ | .call _ | .sek _ _ | .snek _ _ | .se _ _ | .ldk _ _ | .addk _ _
  | .mov _ _ | .or _ _ | .and _ _ | .xor _ _ | .add _ _ | .sub _ _ | .shr _ _ | .subn _ _
  | .shl _ _ | .sne _ _ | .ldi _ | .jpv0 _ | .rnd _ _ | .drw _ _ _ | .skp _ | .sknp _
  | .getdt _ | .waitk _ | .setdt _ | .setst _ | .addi _ | .font _ | .bcd _ | .stm _ | .ldm _ => true

end Sys2Proof
end

