-- ==== Sys2Proof/Decode.lean ====
section
/-!
DEFINITION. The fields of an instruction word (30_encoding.md R71), the decoder (R74), total on
every word and every list of bytes and rejecting by name, and the encoder written from the same
table (R75).
-/

namespace Sys2Proof

/-! ### Fields (R71) -/

/-- `class = op[15:12]` (R71). -/
def fieldClass (op : Word) : Imm4 := op.extractLsb' 12 4

/-- `x = op[11:8]`, a register number (R71). -/
def fieldX (op : Word) : Reg := (op.extractLsb' 8 4).toFin

/-- `y = op[7:4]`, a register number (R71). -/
def fieldY (op : Word) : Reg := (op.extractLsb' 4 4).toFin

/-- `n = op[3:0]` (R71). -/
def fieldN (op : Word) : Imm4 := op.extractLsb' 0 4

/-- `nn = op[7:0]` (R71). -/
def fieldNN (op : Word) : Imm8 := op.extractLsb' 0 8

/-- `nnn = op[11:0]` (R71). -/
def fieldNNN (op : Word) : Imm12 := op.extractLsb' 0 12

/-! ### The decoder (R74) -/

/-- Why bytes are no instruction. -/
inductive DecodeError where
  /-- The word matches no row of the opcode table (R76, R77). -/
  | unrecognised (op : Word)
  /-- Fewer than two bytes: every instruction is 16 bits (R70). -/
  | truncated
deriving DecidableEq, Repr

/-- The minor opcodes of class 8, by `n` (R74). -/
def decodeArith (op : Word) : Except DecodeError Instr :=
  match (fieldN op).toNat with
  | 0x0 => .ok (.mov (fieldX op) (fieldY op))
  | 0x1 => .ok (.or (fieldX op) (fieldY op))
  | 0x2 => .ok (.and (fieldX op) (fieldY op))
  | 0x3 => .ok (.xor (fieldX op) (fieldY op))
  | 0x4 => .ok (.add (fieldX op) (fieldY op))
  | 0x5 => .ok (.sub (fieldX op) (fieldY op))
  | 0x6 => .ok (.shr (fieldX op) (fieldY op))
  | 0x7 => .ok (.subn (fieldX op) (fieldY op))
  | 0xE => .ok (.shl (fieldX op) (fieldY op))
  | _ => .error (.unrecognised op)

/-- The minor opcodes of class 0xE, by `nn` (R74). -/
def decodeKey (op : Word) : Except DecodeError Instr :=
  match (fieldNN op).toNat with
  | 0x9E => .ok (.skp (fieldX op))
  | 0xA1 => .ok (.sknp (fieldX op))
  | _ => .error (.unrecognised op)

/-- The minor opcodes of class 0xF, by `nn` (R74). -/
def decodeMisc (op : Word) : Except DecodeError Instr :=
  match (fieldNN op).toNat with
  | 0x07 => .ok (.getdt (fieldX op))
  | 0x0A => .ok (.waitk (fieldX op))
  | 0x15 => .ok (.setdt (fieldX op))
  | 0x18 => .ok (.setst (fieldX op))
  | 0x1E => .ok (.addi (fieldX op))
  | 0x29 => .ok (.font (fieldX op))
  | 0x33 => .ok (.bcd (fieldX op))
  | 0x55 => .ok (.stm (fieldX op))
  | 0x65 => .ok (.ldm (fieldX op))
  | _ => .error (.unrecognised op)

/-- The instruction by class and minor opcode, the FIXED words apart (R74); a fixed digit must match
exactly (decision D12, log 15). -/
def decodeClass (op : Word) : Except DecodeError Instr :=
  match (fieldClass op).toNat with
  | 0x0 => .ok (.sys (fieldNNN op))
  | 0x1 => .ok (.jp (fieldNNN op))
  | 0x2 => .ok (.call (fieldNNN op))
  | 0x3 => .ok (.sek (fieldX op) (fieldNN op))
  | 0x4 => .ok (.snek (fieldX op) (fieldNN op))
  | 0x5 => if fieldN op = 0 then .ok (.se (fieldX op) (fieldY op)) else .error (.unrecognised op)
  | 0x6 => .ok (.ldk (fieldX op) (fieldNN op))
  | 0x7 => .ok (.addk (fieldX op) (fieldNN op))
  | 0x8 => decodeArith op
  | 0x9 => if fieldN op = 0 then .ok (.sne (fieldX op) (fieldY op)) else .error (.unrecognised op)
  | 0xA => .ok (.ldi (fieldNNN op))
  | 0xB => .ok (.jpv0 (fieldNNN op))
  | 0xC => .ok (.rnd (fieldX op) (fieldNN op))
  | 0xD => .ok (.drw (fieldX op) (fieldY op) (fieldN op))
  | 0xE => decodeKey op
  | 0xF => decodeMisc op
  | _ => .error (.unrecognised op)

/-- The instruction that a word selects (R74): the two FIXED words take precedence. -/
def decode (op : Word) : Except DecodeError Instr :=
  if op = 0x00E0#16 then .ok .cls else if op = 0x00EE#16 then .ok .ret else decodeClass op

/-- Two bytes, the one at the lower address first, as a word: big-endian (20_memory.md R55). -/
def wordOfBytes (hi lo : Byte) : Word := (hi.setWidth 16 <<< 8) ||| lo.setWidth 16

/-- The decoder on bytes: the instruction at their front and the bytes after it (R70). -/
def decodeBytes (bytes : List Byte) : Except DecodeError (Instr × List Byte) :=
  match bytes with
  | hi :: lo :: rest =>
    match decode (wordOfBytes hi lo) with
    | .ok i => .ok (i, rest)
    | .error e => .error e
  | _ => .error .truncated

/-! ### The encoder (R72, R75) -/

/-- Format `NNN`: class and `nnn` (R72). -/
def packNNN (cls : Imm4) (nnn : Imm12) : Word := (cls.setWidth 16 <<< 12) ||| nnn.setWidth 16

/-- Format `XNN`, and format `X` with its fixed minor opcode as `nn` (R72). -/
def packXNN (cls : Imm4) (x : Reg) (nn : Imm8) : Word :=
  (cls.setWidth 16 <<< 12) ||| ((BitVec.ofFin (w := 4) x).setWidth 16 <<< 8) ||| nn.setWidth 16

/-- Format `XYN`, and format `XY` with its fixed minor opcode as `n` (R72). -/
def packXYN (cls : Imm4) (x y : Reg) (n : Imm4) : Word :=
  (cls.setWidth 16 <<< 12) ||| ((BitVec.ofFin (w := 4) x).setWidth 16 <<< 8) |||
    ((BitVec.ofFin (w := 4) y).setWidth 16 <<< 4) ||| n.setWidth 16

/-- The word of an instruction (R75). -/
def encode (i : Instr) : Word :=
  match i with
  | .cls => 0x00E0#16
  | .ret => 0x00EE#16
  | .sys nnn => packNNN 0x0 nnn
  | .jp nnn => packNNN 0x1 nnn
  | .call nnn => packNNN 0x2 nnn
  | .sek x nn => packXNN 0x3 x nn
  | .snek x nn => packXNN 0x4 x nn
  | .se x y => packXYN 0x5 x y 0x0
  | .ldk x nn => packXNN 0x6 x nn
  | .addk x nn => packXNN 0x7 x nn
  | .mov x y => packXYN 0x8 x y 0x0
  | .or x y => packXYN 0x8 x y 0x1
  | .and x y => packXYN 0x8 x y 0x2
  | .xor x y => packXYN 0x8 x y 0x3
  | .add x y => packXYN 0x8 x y 0x4
  | .sub x y => packXYN 0x8 x y 0x5
  | .shr x y => packXYN 0x8 x y 0x6
  | .subn x y => packXYN 0x8 x y 0x7
  | .shl x y => packXYN 0x8 x y 0xE
  | .sne x y => packXYN 0x9 x y 0x0
  | .ldi nnn => packNNN 0xA nnn
  | .jpv0 nnn => packNNN 0xB nnn
  | .rnd x nn => packXNN 0xC x nn
  | .drw x y n => packXYN 0xD x y n
  | .skp x => packXNN 0xE x 0x9E
  | .sknp x => packXNN 0xE x 0xA1
  | .getdt x => packXNN 0xF x 0x07
  | .waitk x => packXNN 0xF x 0x0A
  | .setdt x => packXNN 0xF x 0x15
  | .setst x => packXNN 0xF x 0x18
  | .addi x => packXNN 0xF x 0x1E
  | .font x => packXNN 0xF x 0x29
  | .bcd x => packXNN 0xF x 0x33
  | .stm x => packXNN 0xF x 0x55
  | .ldm x => packXNN 0xF x 0x65

/-! ### The host's numbering of an instruction's bits -/

/-- The two bytes, lower address first, of an instruction whose bits are `w` numbered as
spec/opcode_table.json numbers them; the bits from `nbits` on are 0. -/
def tableBytes (nbits w : Nat) : Byte × Byte :=
  ((BitVec.ofNat 16 (w % 2 ^ nbits)).extractLsb' 8 8, (BitVec.ofNat 16 (w % 2 ^ nbits)).extractLsb' 0 8)

/-- The instruction the decoder reads from such bits. -/
def decodeTableWord (nbits w : Nat) : Option Instr :=
  match decodeBytes [(tableBytes nbits w).1, (tableBytes nbits w).2] with
  | .ok (i, _) => some i
  | .error _ => none

end Sys2Proof
end

