-- ==== Sys2Proof/Config.lean ====
section
/-!
DEFINITION. The fixed parameters of 00_scope.md R6 and the open parameters of R7 that the model
leaves free (`rand`, `KEY_SELECT`). A free value is an `opaque` constant: no proof can learn it.
-/

namespace Sys2Proof.Config

/-- `MEM_SIZE` (R6): bytes of memory, addresses 0 to 4095. -/
abbrev memSize : Nat := 4096

/-- `PROG_BASE` (R6): load address of the program and reset value of PC. -/
abbrev progBase : Nat := 0x200

/-- `PROG_MAX` (R6): the largest program in bytes. -/
abbrev progMax : Nat := 3584

/-- `FONT_BYTES` (R6): size of the glyph table at `FONT_BASE` = 0. -/
abbrev fontBytes : Nat := 80

/-- The free byte that the `k`-th `Machine.step` samples as `rand` (00_scope.md R7, 42_alu.md
R133, decision D11). DESIGN CHOICE, safe: nothing constrains it (log 3). -/
opaque rand : Nat → Byte

/-- The free preference behind `KEY_SELECT` (00_scope.md R7, 45_keys_timers.md R163, decision
D10): `Machine.keySelect` takes it where it names a pressed key. DESIGN CHOICE, safe (log 4). -/
opaque keyPreference : BitVec 16 → Fin 16

end Sys2Proof.Config
end

