-- ==== Sys2Proof/Machine/State.lean ====
section
/-!
DEFINITION. The state of the CHIP-8 core (10_state.md R20 to R31), the ports whose value outlives an
event (R33), the reasons a step can stop, and the state after reset (R34).
-/

namespace Sys2Proof.Machine

/-- Memory: (address, byte) pairs in the canonical form `Memory.wf` of Ops.lean; an address that is
not listed reads as its reset contents (10_state.md R27, 20_memory.md R51). Log 8. -/
abbrev Memory := List Host.Cell

/-- The framebuffer `FB[px][py]`: 64 columns of 32 one-bit cells (10_state.md R28). -/
abbrev Framebuffer := Vector (Vector Bool 32) 64

/-- The five fatal conditions (60_exceptions.md R170). -/
inductive FatalCondition where
  /-- Code 1: `Reset` with a program over 3584 bytes (R176). -/
  | programTooLarge
  /-- Code 2: a fetch or a data access at 4096 or beyond (R171, R172). -/
  | addressOutOfRange
  /-- Code 3: `CALL` with SP = 15 (R173). -/
  | stackOverflow
  /-- Code 4: `RET` with SP = 0 (R174). -/
  | stackUnderflow
  /-- Code 5: `SKP` or `SKNP` with V[x] >= 16 (R175). -/
  | keyOutOfRange
deriving DecidableEq, Repr, Inhabited

/-- The 3-bit code of a fatal condition (60_exceptions.md R170, decision D13). -/
def FatalCondition.code (c : FatalCondition) : BitVec 3 :=
  match c with
  | .programTooLarge => 1
  | .addressOutOfRange => 2
  | .stackOverflow => 3
  | .stackUnderflow => 4
  | .keyOutOfRange => 5

/-- The latch `HALT` (10_state.md R31). Its 3-bit code is `Halt.code`; the codes 6 and 7 do not
exist (log 20). -/
inductive Halt where
  /-- `HALT = 0`: the machine runs. -/
  | running
  /-- `HALT` holds the code of a fatal condition. -/
  | fatal (c : FatalCondition)
deriving DecidableEq, Repr, Inhabited

/-- The value of `HALT` as the 3-bit code of 60_exceptions.md R170. -/
def Halt.code (h : Halt) : BitVec 3 :=
  match h with
  | .running => 0
  | .fatal c => c.code

/-- The port `step_result` (10_state.md R33, log 17). -/
inductive StepResult where
  /-- No result is reported: after `Reset`, or a warning that has gone (60_exceptions.md R177). -/
  | none
  /-- The step completed. -/
  | ok
  /-- The decode warning: the address of the word and the word (R177). -/
  | warn (pc op : Word)
  /-- The step raised a fatal condition, or found the machine halted by it (R178, R189). -/
  | fault (c : FatalCondition)
deriving DecidableEq, Repr, Inhabited

/-- Everything the spec gives the machine. INVENTORY.md lists each field's rule and reset value. -/
structure State where
  /-- The general registers V[0] to V[15] (R20); V[15] is the flag register VF (R21). -/
  v : Vector Byte 16
  /-- The index register I (R22). -/
  i : Word
  /-- The program counter PC (R23). -/
  pc : Word
  /-- The call stack STK[0] to STK[15] (R24). -/
  stk : Vector Word 16
  /-- The stack pointer SP: the index of the most recently pushed entry, 0 when empty (R24). -/
  sp : BitVec 4
  /-- The delay timer DT (R25). -/
  dt : Byte
  /-- The sound timer ST (R26). -/
  st : Byte
  /-- The memory MEM (R27). -/
  mem : Memory
  /-- The framebuffer FB (R28). -/
  fb : Framebuffer
  /-- The key snapshot KEY, bit k for key k, 1 = pressed (R29). -/
  key : BitVec 16
  /-- The redraw flag REDRAW (R30). -/
  redraw : Bool
  /-- The fault latch HALT (R31). -/
  halt : Halt
  /-- FAULT_INFO, recorded with HALT (R31, 60_exceptions.md R178). -/
  faultInfo : BitVec 17
  /-- FAULT_PC, recorded with HALT (R31, 60_exceptions.md R178). -/
  faultPc : Word
  /-- FAULT_OP, recorded with HALT (R31, 60_exceptions.md R178). -/
  faultOp : Word
  /-- The output port `step_result` (R33). -/
  stepResult : StepResult
  /-- The output port `tone` (R33, 60_exceptions.md R184). -/
  tone : Bool
  /-- The input port `rand_in`: the byte of the step under way (R33, 42_alu.md R133). -/
  randIn : Byte
  /-- The MODEL's own counter of the free bytes drawn by `Machine.step` (log 3). -/
  randIdx : Nat
deriving DecidableEq, Repr, Inhabited

/-- Why an event stops the machine. -/
inductive Fault where
  /-- Raised by `step` alone, for a `Step` of a machine that is already halted: "Step changes no
  state and returns Fault(HALT) again" (60_exceptions.md R189, 00_scope.md R12 line 1). SAFE: the
  spec gives such a step no effect (log 2). -/
  | halted (c : FatalCondition)
  /-- Raised by `respond` alone, never by `step`, for a `Tick` or `SetKeys` after a failed `Reset`: "the
  machine accepts only another `Reset`" (60_exceptions.md R176, 70_reset_and_hazards.md R201, 93 U9).
  SAFE: a model is to allow only `Reset` to follow (log 28). -/
  | onlyResetFollows
deriving DecidableEq, Repr

/-- Why an instruction has no meaning in the model. -/
inductive Refusal where
  /-- Raised by an arm of `exec` for an instruction that has no meaning yet; SAFE. No arm does. -/
  | notModelled (mnemonic : String)
deriving DecidableEq, Repr

/-- The state after `Reset` with the empty program (10_state.md R34, 70_reset_and_hazards.md R200):
PC = 0x200, SP = 0, memory at its reset contents (nothing listed), everything else 0. The zeros the
source document does not state are the spec's decisions D1, D2 and D15 (logs 6, 7, 17, 23). -/
def State.reset : State where
  v := Vector.replicate 16 0
  i := 0
  pc := 0x200
  stk := Vector.replicate 16 0
  sp := 0
  dt := 0
  st := 0
  mem := []
  fb := Vector.replicate 64 (Vector.replicate 32 false)
  key := 0
  redraw := false
  halt := .running
  faultInfo := 0
  faultPc := 0
  faultOp := 0
  stepResult := .none
  tone := false
  randIn := 0
  randIdx := 0

end Sys2Proof.Machine

namespace Sys2Proof.Config

/-- The values that a failed `Reset` leaves everywhere but in HALT and FAULT_INFO: the spec promises
nothing about them (70_reset_and_hazards.md R201, 93 U9), so they are free. DESIGN CHOICE, safe
(log 16). -/
opaque unspecifiedState : List Byte → Machine.State → Machine.State

end Sys2Proof.Config
end

