-- ==== Sys2Proof/Machine/Ops.lean ====
section
/-!
DEFINITION. The named operations over memory and registers that the meanings share: the memory of
20_memory.md, the register file of 10_state.md, the program counter's advance, taking a fatal
condition (60_exceptions.md R178), and the parts of the step skeleton (00_scope.md R12) that stand
around an instruction's rule.
-/

namespace Sys2Proof.Machine

/-! ### Memory (20_memory.md) -/

/-- The default `FONT`: 16 glyphs of 5 bytes (20_memory.md R52). PRESUMED: the customary table, from
general knowledge (G1); unsafe for claims about glyph shapes (log 5). -/
def Memory.defaultFont : List Byte :=
  [0xF0, 0x90, 0x90, 0x90, 0xF0, 0x20, 0x60, 0x20, 0x20, 0x70] ++
  [0xF0, 0x10, 0xF0, 0x80, 0xF0, 0xF0, 0x10, 0xF0, 0x10, 0xF0] ++
  [0x90, 0x90, 0xF0, 0x10, 0x10, 0xF0, 0x80, 0xF0, 0x10, 0xF0] ++
  [0xF0, 0x80, 0xF0, 0x90, 0xF0, 0xF0, 0x10, 0x20, 0x40, 0x40] ++
  [0xF0, 0x90, 0xF0, 0x90, 0xF0, 0xF0, 0x90, 0xF0, 0x10, 0xF0] ++
  [0xF0, 0x90, 0xF0, 0x90, 0x90, 0xE0, 0x90, 0xE0, 0x90, 0xE0] ++
  [0xF0, 0x80, 0x80, 0x80, 0xF0, 0xE0, 0x90, 0x90, 0x90, 0xE0] ++
  [0xF0, 0x80, 0xF0, 0x80, 0xF0, 0xF0, 0x80, 0xF0, 0x80, 0x80]

/-- What an unlisted address reads as: the reset contents, the default font at 0 to 79 and 0 from
there on (20_memory.md R51, decisions D2, D3; logs 5, 7, 8). -/
def Memory.background (a : Nat) : Byte := Memory.defaultFont.getD a 0

/-- The canonical form: addresses strictly rising, every address valid (R50), no entry equal to
what an unlisted address reads as. -/
abbrev Memory.wf (m : Memory) : Prop :=
  m.Pairwise (fun c d => c.1 < d.1) ∧
    ∀ c ∈ m, c.1 < Config.memSize ∧ c.2 ≠ Memory.background c.1

/-- `MEM[a]`. -/
def Memory.get (m : Memory) (a : Nat) : Byte :=
  match m with
  | [] => Memory.background a
  | (k, b) :: rest => if k = a then b else Memory.get rest a

/-- Puts an entry in its place by address. -/
def Memory.insert (c : Host.Cell) (m : Memory) : Memory :=
  match m with
  | [] => [c]
  | d :: rest => if c.1 < d.1 then c :: d :: rest else d :: Memory.insert c rest

/-- `MEM[a] <- b`: a write changes that one byte and nothing else (R53). Writing what an unlisted
address reads as removes the entry. -/
def Memory.set (m : Memory) (a : Nat) (b : Byte) : Memory :=
  let others := m.filter (fun c => c.1 != a)
  if b = Memory.background a then others else Memory.insert (a, b) others

/-- The bytes `MEM[a]` to `MEM[a+n-1]`, ascending. -/
def Memory.getSpan (m : Memory) (a n : Nat) : List Byte :=
  (List.range n).map (fun k => m.get (a + k))

/-- Stores bytes at ascending addresses from `a` on (R55). -/
def Memory.setSpan (m : Memory) (a : Nat) (bytes : List Byte) : Memory :=
  match bytes with
  | [] => m
  | b :: rest => Memory.setSpan (m.set a b) (a + 1) rest

/-- All `n` addresses from `a` on are valid, that is below 4096; with `n = 0` there is none to check
(20_memory.md R53, R58; 43_index_memory.md R146). -/
def spanFits (a n : Nat) : Bool := n == 0 || decide (a + n - 1 < Config.memSize)

/-- The lowest offending address of a span that does not fit, `max(I, 4096)`, in the width of
FAULT_INFO (43_index_memory.md R146 (d), 60_exceptions.md R172). -/
def lowestOffending (a : Nat) : BitVec 17 := BitVec.ofNat 17 (max a Config.memSize)

/-! ### Registers (10_state.md) -/

/-- Reads the general register `V[r]` (R20). -/
def State.getV (s : State) (r : Reg) : Byte := s.v[r.val]

/-- Writes the general register `V[r]` (R20). -/
def State.setV (s : State) (r : Reg) (b : Byte) : State := { s with v := s.v.set r.val b }

/-- Writes all 16 general registers at once. -/
def State.setRegs (s : State) (vs : Vector Byte 16) : State := { s with v := vs }

/-- Writes the index register `I` (R22). -/
def State.setI (s : State) (w : Word) : State := { s with i := w }

/-- Writes the program counter (R23). -/
def State.setPc (s : State) (w : Word) : State := { s with pc := w }

/-- Writes the delay timer (R25). -/
def State.setDt (s : State) (b : Byte) : State := { s with dt := b }

/-- Writes the sound timer (R26). -/
def State.setSt (s : State) (b : Byte) : State := { s with st := b }

/-- Replaces the memory. -/
def State.setMem (s : State) (m : Memory) : State := { s with mem := m }

/-- Replaces the framebuffer and sets the redraw flag: the only writers of FB are the only
instructions that set REDRAW (R28, R30). -/
def State.redrawWith (s : State) (fb : Framebuffer) : State := { s with fb := fb, redraw := true }

/-- The stack entry `STK[SP]` (R24). -/
def State.top (s : State) : Word := s.stk[s.sp.toNat]'s.sp.isLt

/-- `SP <- SP + 1; STK[SP] <- w` (R24, 40_flow.md R103). -/
def State.push (s : State) (w : Word) : State :=
  { s with sp := s.sp + 1, stk := s.stk.set (s.sp + 1).toNat w (s.sp + 1).isLt }

/-- `SP <- SP - 1`; the popped entry keeps its value (R24, 40_flow.md R100). -/
def State.pop (s : State) : State := { s with sp := s.sp - 1 }

/-! ### Moving the program counter (00_scope.md R9, 10_state.md R23) -/

/-- "PC advance": `PC <- (PC + 2) mod 65536`. -/
def State.advance (s : State) : State := s.setPc (s.pc + 2)

/-- A skip: PC + 4 when the condition holds, PC + 2 when it does not (41_skip.md). -/
def State.skipIf (s : State) (cond : Bool) : State := s.setPc (if cond then s.pc + 4 else s.pc + 2)

/-! ### Taking a fatal condition (60_exceptions.md R178) -/

/-- Entry into the fatal condition `c` with information `info`, `op` being the fetched word (0 when
the fetch failed): the latch and its record are written and nothing else changes; PC stays at the
faulting instruction (R178, decisions D13 to D15; log 13). There is no return: only `Reset` leaves
the halt (R179). -/
def State.raise (s : State) (c : FatalCondition) (info : BitVec 17) (op : Word) : State :=
  { s with halt := .fatal c, faultInfo := info, faultPc := s.pc, faultOp := op,
           stepResult := .fault c }

/-! ### The step skeleton around an instruction's rule (00_scope.md R12) -/

/-- The start of a `Step(rand)` of a running machine: the byte `rand` stands at its port, REDRAW is
cleared, and the result is Ok unless the step says otherwise (R12 lines 2 and 7). -/
def State.beginStep (s : State) (rand : Byte) : State :=
  { s with redraw := false, stepResult := .ok, randIn := rand }

/-- The model's own counter moves on to the next free byte (log 3). -/
def State.nextDraw (s : State) : State := { s with randIdx := s.randIdx + 1 }

/-- `Fetch(PC)`: the big-endian word at PC and PC + 1, none if PC + 1 >= 4096 (20_memory.md R54).
There is no alignment check (R56, log 19). -/
def State.fetch (s : State) : Option Word :=
  if s.pc.toNat + 1 < Config.memSize then
    some (wordOfBytes (s.mem.get s.pc.toNat) (s.mem.get (s.pc.toNat + 1)))
  else none

/-- A failed fetch: `AddressOutOfRange` with FAULT_INFO = PC and FAULT_OP = 0 (60_exceptions.md
R171). -/
def State.fetchFault (s : State) : State := s.raise .addressOutOfRange (s.pc.setWidth 17) 0

/-- An unrecognised word: the decode warning `Warn(PC, op)` and PC + 2 (30_encoding.md R76,
60_exceptions.md R177). -/
def State.unrecognised (s : State) (op : Word) : State :=
  { s with pc := s.pc + 2, stepResult := .warn s.pc op }

end Sys2Proof.Machine
end

