-- ==== Sys2Proof/Machine/Flags.lean ====
section
/-!
DEFINITION. The values written to the flag register VF (10_state.md R21), each 0 or 1, and the order
of the two writes of a flag-setting instruction (00_scope.md R10, 42_alu.md R132).
-/

namespace Sys2Proof.Machine

/-- A condition as the flag byte 1 or 0. -/
def flagByte (b : Bool) : Byte := if b then 1 else 0

/-- `ADD`: 1 if the true sum exceeds 255 (42_alu.md R127). -/
def carryFlag (a b : Byte) : Byte := flagByte (decide (a.toNat + b.toNat > 255))

/-- `SUB`, `SUBN`: 1 if the minuend is strictly greater than the subtrahend (R120 (b), R128, R130). -/
def noBorrowFlag (a b : Byte) : Byte := flagByte (decide (a.toNat > b.toNat))

/-- `SHR`: the bit shifted out, old bit 0 (R129). -/
def shiftOutLow (a : Byte) : Byte := a &&& 1

/-- `SHL`: the bit shifted out, old bit 7 (R131). -/
def shiftOutHigh (a : Byte) : Byte := (a >>> 7) &&& 1

/-- `V[15] <- flag`, then `V[x] <- result` where the result is computed from the registers AFTER the
flag write: the statements of a row run in the order written (00_scope.md R10, 42_alu.md R132,
decision D5; log 9). -/
def State.flagThenResult (s : State) (flag : Byte) (x : Reg) (result : State → Byte) : State :=
  let flagged := s.setV VF flag
  flagged.setV x (result flagged)

end Sys2Proof.Machine
end

