-- ==== Sys2Proof/Machine/Operands.lean ====
section
/-!
DEFINITION. The operand forms of 30_encoding.md R73 beyond a plain register: zero-extended
immediates, the effective addresses at I, the register range V[0..x], the decimal digits that BCD
stores, and the key choice of WAITK.
-/

namespace Sys2Proof.Machine

/-- `zext_16(nnn)` (R73). -/
def zext12 (nnn : Imm12) : Word := nnn.setWidth 16

/-- `zext_16(b)` of a byte (R73). -/
def zext8 (b : Byte) : Word := b.setWidth 16

/-- The base address `I` as an unbounded integer: effective addresses `I + k` are not truncated
before the range check (20_memory.md R58, decision D8; log 12). -/
def State.baseAddr (s : State) : Nat := s.i.toNat

/-- The values `V[0]` to `V[x]`, inclusive, ascending (30_encoding.md R73, 43_index_memory.md
R144). -/
def State.vRange (s : State) (x : Reg) : List Byte := s.v.toList.take (x.val + 1)

/-- The registers after `V[i] <- MEM[a + i]` for every i from 0 to x; the registers above x keep
their values (43_index_memory.md R145). -/
def State.loadedRegs (s : State) (x : Reg) (a : Nat) : Vector Byte 16 :=
  Vector.ofFn fun r : Fin 16 => if r ≤ x then s.mem.get (a + r.val) else s.v[r.val]

/-- Hundreds, tens and ones of a byte, each as a whole byte (43_index_memory.md R143). -/
def bcdDigits (b : Byte) : List Byte :=
  [BitVec.ofNat 8 (b.toNat / 100), BitVec.ofNat 8 (b.toNat / 10 % 10), BitVec.ofNat 8 (b.toNat % 10)]

/-- `5 * V[x]` in 16 bits: 0 to 1275, no overflow (43_index_memory.md R142). -/
def glyphAddr (b : Byte) : Word := 5 * zext8 b

/-- Key `k` is pressed in the snapshot (10_state.md R29). -/
def State.pressed (s : State) (k : Nat) : Bool := s.key.getLsbD k

/-- The lowest pressed key of a snapshot, 0 if there is none. -/
def lowestKey (keys : BitVec 16) : Fin 16 :=
  ((List.finRange 16).find? (fun k => keys.getLsbD k.val)).getD 0

/-- `KEY_SELECT` (45_keys_timers.md R163, decision D10): a pressed key of a non-zero snapshot, and
nothing more is known of it: the free preference where it names a pressed key, else the lowest
pressed key. Every choice function is of this form (log 4). -/
def keySelect (keys : BitVec 16) : Fin 16 :=
  if keys.getLsbD (Config.keyPreference keys).val then Config.keyPreference keys else lowestKey keys

end Sys2Proof.Machine
end

