-- ==== Sys2Proof/Machine/Alu.lean ====
section
/-!
DEFINITION. The meanings of the register arithmetic and logic instructions (42_alu.md R120 to R133).
Results wrap modulo 256 (R120); a flag-setting instruction writes VF first (R132).
-/

namespace Sys2Proof.Machine

/-- `LDK Vx, nn` (R121). -/
def execLdk (x : Reg) (nn : Imm8) (s : State) : Host.Outcome State Fault Refusal :=
  .next (s.setV x nn).advance

/-- `ADDK Vx, nn` (R122): wraps, no flag. -/
def execAddk (x : Reg) (nn : Imm8) (s : State) : Host.Outcome State Fault Refusal :=
  .next (s.setV x (s.getV x + nn)).advance

/-- `MOV Vx, Vy` (R123). -/
def execMov (x y : Reg) (s : State) : Host.Outcome State Fault Refusal :=
  .next (s.setV x (s.getV y)).advance

/-- `OR Vx, Vy` (R124): VF is not touched. -/
def execOr (x y : Reg) (s : State) : Host.Outcome State Fault Refusal :=
  .next (s.setV x (s.getV x ||| s.getV y)).advance

/-- `AND Vx, Vy` (R125): VF is not touched. -/
def execAnd (x y : Reg) (s : State) : Host.Outcome State Fault Refusal :=
  .next (s.setV x (s.getV x &&& s.getV y)).advance

/-- `XOR Vx, Vy` (R126): VF is not touched. -/
def execXor (x y : Reg) (s : State) : Host.Outcome State Fault Refusal :=
  .next (s.setV x (s.getV x ^^^ s.getV y)).advance

/-- `ADD Vx, Vy` (R127): the sum is taken once, before the flag is written. -/
def execAdd (x y : Reg) (s : State) : Host.Outcome State Fault Refusal :=
  .next (s.flagThenResult (carryFlag (s.getV x) (s.getV y)) x
    (fun _ => s.getV x + s.getV y)).advance

/-- `SUB Vx, Vy` (R128): V[x] and V[y] are read again after the flag write. -/
def execSub (x y : Reg) (s : State) : Host.Outcome State Fault Refusal :=
  .next (s.flagThenResult (noBorrowFlag (s.getV x) (s.getV y)) x
    (fun f => f.getV x - f.getV y)).advance

/-- `SHR Vx` (R129): V[x] is shifted in place, V[y] ignored (decision D27). -/
def execShr (x _y : Reg) (s : State) : Host.Outcome State Fault Refusal :=
  .next (s.flagThenResult (shiftOutLow (s.getV x)) x (fun f => f.getV x >>> 1)).advance

/-- `SUBN Vx, Vy` (R130): V[y] minus V[x], both read again after the flag write. -/
def execSubn (x y : Reg) (s : State) : Host.Outcome State Fault Refusal :=
  .next (s.flagThenResult (noBorrowFlag (s.getV y) (s.getV x)) x
    (fun f => f.getV y - f.getV x)).advance

/-- `SHL Vx` (R131): V[x] is shifted in place, V[y] ignored (decision D27). -/
def execShl (x _y : Reg) (s : State) : Host.Outcome State Fault Refusal :=
  .next (s.flagThenResult (shiftOutHigh (s.getV x)) x (fun f => f.getV x <<< 1)).advance

/-- `RND Vx, nn` (R133): the byte at the port `rand_in`, masked; the byte is free (log 3). -/
def execRnd (x : Reg) (nn : Imm8) (s : State) : Host.Outcome State Fault Refusal :=
  .next (s.setV x (s.randIn &&& nn)).advance

end Sys2Proof.Machine
end

