-- ==== Sys2Proof/Machine/Framebuffer.lean ====
section
/-!
DEFINITION. The framebuffer and its XOR sprite blit (10_state.md R28, 44_display.md R150, R152).
Column 0 is the left edge, row 0 the top edge, bit 7 of a sprite byte the leftmost pixel (decision
D4; log 10).
-/

namespace Sys2Proof.Machine

/-- All cells 0 (R150). -/
def Framebuffer.blank : Framebuffer := Vector.replicate 64 (Vector.replicate 32 false)

/-- `FB[px][py]`. -/
def Framebuffer.cell (fb : Framebuffer) (px : Fin 64) (py : Fin 32) : Bool := (fb[px.val])[py.val]

/-- `FB[px][py] <- b`. -/
def Framebuffer.setCell (fb : Framebuffer) (px : Fin 64) (py : Fin 32) (b : Bool) : Framebuffer :=
  fb.set px.val ((fb[px.val]).set py.val b)

/-- A column taken modulo 64 (R152). -/
def wrapX (n : Nat) : Fin 64 := Fin.ofNat 64 n

/-- A row taken modulo 32 (R152). -/
def wrapY (n : Nat) : Fin 32 := Fin.ofNat 32 n

/-- The bit of a sprite row at column offset `c`: bit `7 - c` (R152, decision D4). -/
def spriteBit (row : Byte) (c : Nat) : Bool := row.getLsbD (7 - c)

/-- One pixel of the blit: the sprite bit is XORed into the cell, and a cell that goes from 1 to 0
sets the running collision flag (R152). -/
def blitPixel (px : Fin 64) (py : Fin 32) (b : Bool) (p : Framebuffer × Bool) : Framebuffer × Bool :=
  (p.1.setCell px py (p.1.cell px py ^^ b), p.2 || (b && p.1.cell px py))

/-- One row of the blit: the pixels of column offsets 0 to 7 (R152). -/
def blitRow (x0 : Nat) (py : Fin 32) (row : Byte) (p : Framebuffer × Bool) : Framebuffer × Bool :=
  (List.range 8).foldl (fun q c => blitPixel (wrapX (x0 + c)) py (spriteBit row c) q) p

/-- The rows of the blit, the first at row `y0`, each pixel wrapping in both directions (R152). -/
def blitRows (x0 y0 : Nat) (rows : List Byte) (p : Framebuffer × Bool) : Framebuffer × Bool :=
  match rows with
  | [] => p
  | row :: rest => blitRows x0 (y0 + 1) rest (blitRow x0 (wrapY y0) row p)

/-- `Blit(x0, y0, row, n)`: the new framebuffer and the collision flag (R152). -/
def blit (fb : Framebuffer) (x0 y0 : Nat) (rows : List Byte) : Framebuffer × Bool :=
  blitRows x0 y0 rows (fb, false)

end Sys2Proof.Machine
end

