-- ==== Sys2Proof/Machine/Display.lean ====
section
/-!
DEFINITION. The meanings of the display instructions (44_display.md R150, R151).
-/

namespace Sys2Proof.Machine

/-- `CLS` (R150): VF is not changed. -/
def execCls (s : State) : Host.Outcome State Fault Refusal :=
  .next (s.redrawWith Framebuffer.blank).advance

/-- The blit of `DRW Vx, Vy, n`: at column V[x], row V[y], the `n` bytes from I on (R151). -/
def State.drawBlit (s : State) (x y : Reg) (n : Imm4) : Framebuffer × Bool :=
  blit s.fb (s.getV x).toNat (s.getV y).toNat (s.mem.getSpan s.baseAddr n.toNat)

/-- `DRW Vx, Vy, n` (R151): the coordinates and the rows are read before anything is written; VF is
always written, and n = 0 reads and draws nothing. -/
def execDrw (x y : Reg) (n : Imm4) (s : State) : Host.Outcome State Fault Refusal :=
  if spanFits s.baseAddr n.toNat then
    .next ((s.redrawWith (s.drawBlit x y n).1).setV VF (flagByte (s.drawBlit x y n).2)).advance
  else .next (s.raise .addressOutOfRange (lowestOffending s.baseAddr) (encode (.drw x y n)))

end Sys2Proof.Machine
end

