-- ==== Sys2Proof/Machine/Flow.lean ====
section
/-!
DEFINITION. The meanings of the control transfer and system instructions (40_flow.md R100 to R104).
-/

namespace Sys2Proof.Machine

/-- `RET` (R100): `StackUnderflow` when SP = 0, else PC from the stack. -/
def execRet (s : State) : Host.Outcome State Fault Refusal :=
  if s.sp = 0 then .next (s.raise .stackUnderflow (s.pc.setWidth 17) (encode .ret))
  else .next (s.setPc s.top).pop

/-- `SYS nnn` (R101): a no-op. -/
def execSys (_nnn : Imm12) (s : State) : Host.Outcome State Fault Refusal := .next s.advance

/-- `JP nnn` (R102). -/
def execJp (nnn : Imm12) (s : State) : Host.Outcome State Fault Refusal := .next (s.setPc (zext12 nnn))

/-- `CALL nnn` (R103): `StackOverflow` when SP = 15, else push PC + 2 and jump. -/
def execCall (nnn : Imm12) (s : State) : Host.Outcome State Fault Refusal :=
  if s.sp = 15 then .next (s.raise .stackOverflow (s.pc.setWidth 17) (encode (.call nnn)))
  else .next ((s.push (s.pc + 2)).setPc (zext12 nnn))

/-- `JPV0 nnn` (R104): always V[0], the sum not reduced to 12 bits. -/
def execJpv0 (nnn : Imm12) (s : State) : Host.Outcome State Fault Refusal :=
  .next (s.setPc (zext8 (s.getV 0) + zext12 nnn))

end Sys2Proof.Machine
end

