-- ==== Sys2Proof/Machine/IndexMemory.lean ====
section
/-!
DEFINITION. The meanings of the index register and memory instructions (43_index_memory.md R140 to
R146). All addresses are checked before anything changes, and I is never changed by an access
(R146; log 12).
-/

namespace Sys2Proof.Machine

/-- `LDI nnn` (R140). -/
def execLdi (nnn : Imm12) (s : State) : Host.Outcome State Fault Refusal :=
  .next (s.setI (zext12 nnn)).advance

/-- `ADDI Vx` (R141): modulo 65536 (decision D7; log 11), no flag. -/
def execAddi (x : Reg) (s : State) : Host.Outcome State Fault Refusal :=
  .next (s.setI (s.i + zext8 (s.getV x))).advance

/-- `FONT Vx` (R142): the whole V[x] is multiplied, memory is not accessed. -/
def execFont (x : Reg) (s : State) : Host.Outcome State Fault Refusal :=
  .next (s.setI (glyphAddr (s.getV x))).advance

/-- `BCD Vx` (R143): three digits at I, I + 1, I + 2. -/
def execBcd (x : Reg) (s : State) : Host.Outcome State Fault Refusal :=
  if spanFits s.baseAddr 3 then
    .next (s.setMem (s.mem.setSpan s.baseAddr (bcdDigits (s.getV x)))).advance
  else .next (s.raise .addressOutOfRange (lowestOffending s.baseAddr) (encode (.bcd x)))

/-- `STM Vx` (R144): V[0] to V[x] at I to I + x. -/
def execStm (x : Reg) (s : State) : Host.Outcome State Fault Refusal :=
  if spanFits s.baseAddr (x.val + 1) then
    .next (s.setMem (s.mem.setSpan s.baseAddr (s.vRange x))).advance
  else .next (s.raise .addressOutOfRange (lowestOffending s.baseAddr) (encode (.stm x)))

/-- `LDM Vx` (R145): V[0] to V[x] from I to I + x. -/
def execLdm (x : Reg) (s : State) : Host.Outcome State Fault Refusal :=
  if spanFits s.baseAddr (x.val + 1) then .next (s.setRegs (s.loadedRegs x s.baseAddr)).advance
  else .next (s.raise .addressOutOfRange (lowestOffending s.baseAddr) (encode (.ldm x)))

end Sys2Proof.Machine
end

