-- ==== Sys2Proof/Machine/KeysTimers.lean ====
section
/-!
DEFINITION. The meanings of the key and timer instructions (45_keys_timers.md R161 to R166).
-/

namespace Sys2Proof.Machine

/-- The shared rule of the key skips: `KeyOutOfRange` when the key number is 16 or more, else a skip
when the key's level is `level` (R161, R162, decision D9; log 14). -/
def State.keySkip (s : State) (k : Byte) (level : Bool) (op : Word) : State :=
  if k.toNat < 16 then s.skipIf (s.pressed k.toNat == level)
  else s.raise .keyOutOfRange (k.setWidth 17) op

/-- `SKP Vx` (R161). -/
def execSkp (x : Reg) (s : State) : Host.Outcome State Fault Refusal :=
  .next (s.keySkip (s.getV x) true (encode (.skp x)))

/-- `SKNP Vx` (R162). -/
def execSknp (x : Reg) (s : State) : Host.Outcome State Fault Refusal :=
  .next (s.keySkip (s.getV x) false (encode (.sknp x)))

/-- `WAITK Vx` (R163): level-sensitive; with no key pressed nothing changes and PC stays. -/
def execWaitk (x : Reg) (s : State) : Host.Outcome State Fault Refusal :=
  if s.key = 0 then .next s
  else .next (s.setV x (BitVec.ofNat 8 (keySelect s.key).val)).advance

/-- `GETDT Vx` (R164). -/
def execGetdt (x : Reg) (s : State) : Host.Outcome State Fault Refusal :=
  .next (s.setV x s.dt).advance

/-- `SETDT Vx` (R165). -/
def execSetdt (x : Reg) (s : State) : Host.Outcome State Fault Refusal :=
  .next (s.setDt (s.getV x)).advance

/-- `SETST Vx` (R166). -/
def execSetst (x : Reg) (s : State) : Host.Outcome State Fault Refusal :=
  .next (s.setSt (s.getV x)).advance

end Sys2Proof.Machine
end

