-- ==== Sys2Proof/Machine/Skip.lean ====
section
/-!
DEFINITION. The meanings of the conditional skips on registers (41_skip.md R110 to R113).
-/

namespace Sys2Proof.Machine

/-- `SEK Vx, nn` (R110). -/
def execSek (x : Reg) (nn : Imm8) (s : State) : Host.Outcome State Fault Refusal :=
  .next (s.skipIf (s.getV x == nn))

/-- `SNEK Vx, nn` (R111). -/
def execSnek (x : Reg) (nn : Imm8) (s : State) : Host.Outcome State Fault Refusal :=
  .next (s.skipIf (s.getV x != nn))

/-- `SE Vx, Vy` (R112). -/
def execSe (x y : Reg) (s : State) : Host.Outcome State Fault Refusal :=
  .next (s.skipIf (s.getV x == s.getV y))

/-- `SNE Vx, Vy` (R113). -/
def execSne (x y : Reg) (s : State) : Host.Outcome State Fault Refusal :=
  .next (s.skipIf (s.getV x != s.getV y))

end Sys2Proof.Machine
end

