-- ==== Sys2Proof/Machine/Step.lean ====
section
/-!
DEFINITION. The event `Step(rand)` (00_scope.md R11, R12), the host's `step` with a free `rand`, and
the placing of a word where the next step fetches.
-/

namespace Sys2Proof.Machine

/-- `Step(rand)` (00_scope.md R12): a halted machine reports its fault; else REDRAW is cleared, the
word at PC is fetched and decoded, and its rule runs. An unrecognised word warns and advances. -/
def stepWith (rand : Byte) (s : State) : Host.Outcome State Fault Refusal :=
  match s.halt with
  | .fatal c => .fault (.halted c)
  | .running =>
    match (s.beginStep rand).fetch with
    | none => .next (s.beginStep rand).fetchFault
    | some op =>
      match decode op with
      | .ok i => exec i (s.beginStep rand)
      | .error _ => .next ((s.beginStep rand).unrecognised op)

/-- One step of the machine: the event `Step` with the next free byte (log 3). -/
def step (s : State) : Host.Outcome State Fault Refusal :=
  stepWith (Config.rand s.randIdx) s.nextDraw

/-- `s` with an instruction, its bits numbered as spec/opcode_table.json numbers them, stored
big-endian at PC (20_memory.md R55), as `Reset(program)` would have placed it (log 18). A PC beyond
4094 cannot be fetched from, and then nothing is stored. -/
def State.withFetchWord (s : State) (nbits w : Nat) : State :=
  if s.pc.toNat + 1 < Config.memSize then
    s.setMem ((s.mem.set s.pc.toNat (tableBytes nbits w).1).set (s.pc.toNat + 1) (tableBytes nbits w).2)
  else s

end Sys2Proof.Machine
end

