-- ==== Sys2Proof/Machine/Events.lean ====
section
/-!
DEFINITION. The other three events that change the state (00_scope.md R11): `Reset(program)`
(70_reset_and_hazards.md R200), `Tick` (60_exceptions.md R183) and `SetKeys` (45_keys_timers.md
R160), and the machine's response to any event, or its refusal of one after a failed `Reset`.
-/

namespace Sys2Proof.Machine

/-- The memory with the contents of `m` at the 4096 addresses, in canonical form (log 8). -/
def Memory.normalize (m : Memory) : Memory :=
  (List.range Config.memSize).filterMap fun a =>
    if m.get a = Memory.background a then none else some (a, m.get a)

/-- A successful `Reset(program)`: FONT at 0 to 79, the program from 0x200 on, 0 elsewhere, every
register at its reset value (R200, 10_state.md R34). FONT is a parameter (20_memory.md R52, log 5).
The model's own draw counter goes on, so that no free byte is drawn twice (log 3). -/
def State.loaded (s : State) (font : Vector Byte 80) (program : List Byte) : State :=
  { State.reset with
    mem := (Memory.setSpan [] 0 font.toList).setSpan Config.progBase program,
    randIdx := s.randIdx }

/-- A failed `Reset(program)`: HALT = 1, FAULT_INFO = the length saturated at 131071, `Fault(1)` is
returned, and everything else is unspecified (R176, R200, R201). -/
def State.loadFailed (s : State) (program : List Byte) : State :=
  { Config.unspecifiedState program s with
    mem := (Config.unspecifiedState program s).mem.normalize,
    halt := .fatal .programTooLarge,
    faultInfo := BitVec.ofNat 17 (min program.length 131071),
    stepResult := .fault .programTooLarge,
    randIdx := s.randIdx }

/-- The event `Reset(program)` (R200), with the glyph table `font`. -/
def State.load (s : State) (font : Vector Byte 80) (program : List Byte) : State :=
  if program.length > Config.progMax then s.loadFailed program else s.loaded font program

/-- A decode warning is gone when the next event starts (60_exceptions.md R177); the other results
stay at the port (log 17). -/
def StepResult.expire (r : StepResult) : StepResult :=
  match r with
  | .warn _ _ => .none
  | .none => .none
  | .ok => .ok
  | .fault c => .fault c

/-- One count towards 0, stopping there (R183). -/
def countDown (b : Byte) : Byte := if b.toNat > 0 then b - 1 else b

/-- HALT = 1, a `Reset` failed: nothing but HALT and FAULT_INFO is known, and only another `Reset` may
follow (60_exceptions.md R176, R201; log 28). -/
abbrev State.ResetFailed (s : State) : Prop := s.halt = .fatal .programTooLarge

/-- The event `Tick` (R183): both timers count down independently; `tone` tells whether ST was
non-zero at its start (R184, decision D19; log 17). HALT is not read (R189); `respond` refuses the
event after a failed `Reset` (log 28). -/
def State.tick (s : State) : State :=
  { s with
    tone := decide (s.st.toNat > 0),
    dt := countDown s.dt,
    st := countDown s.st,
    stepResult := s.stepResult.expire }

/-- The event `SetKeys(k)` (R160): all 16 key bits at once. HALT is not read (R189); `respond`
refuses the event after a failed `Reset` (log 28). -/
def State.setKeys (s : State) (k : BitVec 16) : State :=
  { s with key := k, stepResult := s.stepResult.expire }

/-- The event `Step(rand)` as a change of state: a halted machine keeps its state and reports its
fault again at the port (R189). -/
def State.afterStep (s : State) (rand : Byte) : State :=
  match stepWith rand s with
  | .next t => t
  | .fault (.halted c) => { s with stepResult := .fault c }
  | .fault .onlyResetFollows => s
  | .refused _ => s

/-- The four events through which the state changes (00_scope.md R11). -/
inductive Event where
  /-- `Reset(program)` with the glyph table of the hardware (R200). -/
  | reset (font : Vector Byte 80) (program : List Byte)
  /-- `Step(rand)` (R12). -/
  | step (rand : Byte)
  /-- `Tick` (R183). -/
  | tick
  /-- `SetKeys(k)` (R160). -/
  | setKeys (k : BitVec 16)
deriving DecidableEq, Repr

/-- The machine's response to one event. The host issues events one at a time, in any order (R11,
70 R207, R209; log 1). After a failed `Reset` only `Reset` is accepted (R176, R201, 93 U9): `Step`
returns Fault(1) and nothing follows it, `Tick` and `SetKeys` are refused. R189 and decision D15 let
`Tick` and `SetKeys` act while HALT is not 0; that R201 goes before them here is the model's choice,
DESIGN CHOICE, safe (log 28). -/
def respond (e : Event) (s : State) : Host.Outcome State Fault Refusal :=
  match e with
  | .reset font program => .next (s.load font program)
  | .step rand => if s.ResetFailed then stepWith rand s else .next (s.afterStep rand)
  | .tick => if s.ResetFailed then .fault .onlyResetFollows else .next s.tick
  | .setKeys k => if s.ResetFailed then .fault .onlyResetFollows else .next (s.setKeys k)

/-- The response to a sequence of events, the first first; it ends at the first that is not
accepted. -/
def respondAll (events : List Event) (s : State) : Host.Outcome State Fault Refusal :=
  match events with
  | [] => .next s
  | e :: rest =>
    match respond e s with
    | .next t => respondAll rest t
    | .fault f => .fault f
    | .refused r => .refused r

end Sys2Proof.Machine
end

