-- ==== Sys2Proof/Machine/Ports.lean ====
section
/-!
DEFINITION. The read-only outputs of the core (10_state.md R33). Nothing else crosses the boundary
to the host.
-/

namespace Sys2Proof.Machine

/-- The output ports of 10_state.md R33. -/
structure Ports where
  /-- `redraw`: the value of REDRAW. -/
  redraw : Bool
  /-- `fb_out`: a copy of FB. -/
  fbOut : Framebuffer
  /-- `halt`: the 3-bit code, 0 = running. -/
  halt : BitVec 3
  /-- `fault_info`. -/
  faultInfo : BitVec 17
  /-- `fault_pc`. -/
  faultPc : Word
  /-- `fault_op`. -/
  faultOp : Word
  /-- `step_result`: the result of the last Step. -/
  stepResult : StepResult
  /-- `tone`: the result of the last Tick. -/
  tone : Bool
deriving DecidableEq, Repr

/-- What the host can read of a state (R33). -/
def State.ports (s : State) : Ports where
  redraw := s.redraw
  fbOut := s.fb
  halt := s.halt.code
  faultInfo := s.faultInfo
  faultPc := s.faultPc
  faultOp := s.faultOp
  stepResult := s.stepResult
  tone := s.tone

end Sys2Proof.Machine
end

