-- ==== Sys2Proof/Safety.lean ====
section
/-!
DEFINITION. What counts as a safe run, in the terms claims use: running states, the TERMINAL states
of 70_reset_and_hazards.md R211, the invariants of 10_state.md R35, and the frames that statements
about one instruction are made of.
-/

namespace Sys2Proof.Machine

/-- The machine runs: `HALT = 0`. A halted state is never the successful end of a run (R189). -/
abbrev State.Running (s : State) : Prop := s.halt = .running

/-- The TERMINAL states (R211, decision D23; log 24): `HALT = 0` and the word at PC is a jump to PC. -/
abbrev State.Terminal (s : State) : Prop :=
  s.halt = .running ∧ s.fetch = some (0x1000 + s.pc)

/-- The fault record agrees with the latch: zero while the machine runs (10_state.md R31, R34); once
halted by a step, the values of 60_exceptions.md R170 and R178, with REDRAW 0. After a failed
`Reset` nothing is promised (R176). -/
def State.RecordAgrees (s : State) : Prop :=
  match s.halt with
  | .running => s.faultInfo = 0 ∧ s.faultPc = 0 ∧ s.faultOp = 0
  | .fatal .programTooLarge => True
  | .fatal .addressOutOfRange =>
      4095 ≤ s.faultInfo.toNat ∧ s.faultInfo.toNat ≤ 65535 ∧ s.faultPc = s.pc ∧ s.redraw = false
  | .fatal .stackOverflow =>
      s.sp = 15 ∧ s.faultInfo.toNat = s.pc.toNat ∧ s.faultPc = s.pc ∧ s.redraw = false
  | .fatal .stackUnderflow =>
      s.sp = 0 ∧ s.faultInfo.toNat = s.pc.toNat ∧ s.faultPc = s.pc ∧ s.redraw = false
  | .fatal .keyOutOfRange =>
      16 ≤ s.faultInfo.toNat ∧ s.faultInfo.toNat ≤ 255 ∧ s.faultPc = s.pc ∧ s.redraw = false

/-- Invariants of every reachable state (10_state.md R35, and more): memory is in canonical form; and,
unless a `Reset` failed (R201: nothing else is promised then), `PC <= 4350` (R35 (d)), `STK[0]` is
never written (R24), every stack entry is at most 4096 (R35 (c)), and the fault record agrees with
the latch. The bounds of R35 (a), (b) are in the types. R35 itself names neither the canonical form,
which is the model's (log 8; after a failed `Reset`, log 16), nor the record, which is by the spec's
decisions D13 to D15 (log 13), nor the 0 in STK[0], which is by D1 (log 6). -/
def State.Inv (s : State) : Prop :=
  s.mem.wf ∧
    (s.halt = .fatal .programTooLarge ∨
      (s.pc.toNat ≤ 4350 ∧ s.stk[0] = 0 ∧ (∀ k : Fin 16, (s.stk[k.val]).toNat ≤ 4096) ∧
        s.RecordAgrees))

/-- A safe response to a sequence of events: every event is accepted, and the machine runs before and
after each of them. -/
def SafeRun (events : List Event) (s : State) : Prop :=
  match events with
  | [] => s.Running
  | e :: rest => s.Running ∧ ∃ t, respond e s = .next t ∧ SafeRun rest t

/-- The event is a `Reset`. -/
def Event.isReset (e : Event) : Bool :=
  match e with
  | .reset _ _ => true
  | .step _ | .tick | .setKeys _ => false

/-! ### Frames -/

/-- The parts of the state that frames speak of. -/
inductive Part where
  /-- V[0] to V[15]. -/
  | v
  /-- I. -/
  | i
  /-- PC. -/
  | pc
  /-- SP and STK. -/
  | stack
  /-- DT. -/
  | dt
  /-- ST. -/
  | st
  /-- Every byte of MEM. -/
  | memory
  /-- Every cell of FB. -/
  | cells
  /-- REDRAW. -/
  | redraw
  /-- KEY. -/
  | key
  /-- HALT, FAULT_INFO, FAULT_PC and FAULT_OP. -/
  | latch
  /-- The port `step_result`. -/
  | result
  /-- The port `tone`. -/
  | tone
  /-- The port `rand_in` and the model's draw counter. -/
  | rand
deriving DecidableEq, Repr

/-- `t` agrees with `s` on one part. -/
def SamePart (p : Part) (s t : State) : Prop :=
  match p with
  | .v => ∀ r, t.getV r = s.getV r
  | .i => t.i = s.i
  | .pc => t.pc = s.pc
  | .stack => t.sp = s.sp ∧ ∀ k : Fin 16, t.stk[k.val] = s.stk[k.val]
  | .dt => t.dt = s.dt
  | .st => t.st = s.st
  | .memory => ∀ a, t.mem.get a = s.mem.get a
  | .cells => ∀ px py, Framebuffer.cell t.fb px py = Framebuffer.cell s.fb px py
  | .redraw => t.redraw = s.redraw
  | .key => t.key = s.key
  | .latch => t.halt = s.halt ∧ t.faultInfo = s.faultInfo ∧ t.faultPc = s.faultPc ∧
      t.faultOp = s.faultOp
  | .result => t.stepResult = s.stepResult
  | .tone => t.tone = s.tone
  | .rand => t.randIn = s.randIn ∧ t.randIdx = s.randIdx

/-- From `s` to `t` nothing changes outside the parts `ps`. -/
def OnlyChanges (ps : List Part) (s t : State) : Prop := ∀ p, p ∉ ps → SamePart p s t

/-- The registers outside `rs` keep their values. -/
def SameVBut (rs : List Reg) (s t : State) : Prop := ∀ r, r ∉ rs → t.getV r = s.getV r

/-- `PC <- (PC + k) mod 65536` (10_state.md R23, decision D25; log 19). -/
def PcPlus (k : Nat) (s t : State) : Prop := t.pc.toNat = (s.pc.toNat + k) % 65536

/-- The frame of an arithmetic instruction: of the general registers only `rs` may change, PC advances
by 2, and nothing else changes. -/
def WritesV (rs : List Reg) (s t : State) : Prop :=
  OnlyChanges [.v, .pc] s t ∧ SameVBut rs s t ∧ PcPlus 2 s t

/-- The instruction takes the fatal condition `c` (60_exceptions.md R178): the latch, its record and
the step's result are written, and nothing else changes. -/
def FaultsWith (c : FatalCondition) (info : Nat) (i : Instr) (s : State) : Prop :=
  ∃ t, exec i s = .next t ∧ OnlyChanges [.latch, .result] s t ∧ t.halt = .fatal c ∧
    t.faultInfo.toNat = info ∧ t.faultPc = s.pc ∧ t.faultOp = encode i ∧ t.stepResult = .fault c

/-- The sprite of `DRW Vx, Vy, n` has a 1 bit that falls on the cell `(px, py)`: bit `7 - c` of its
row `r` falls on column `(V[x] + c) mod 64`, row `(V[y] + r) mod 32` (44_display.md R152). -/
def SpriteLights (s : State) (x y : Reg) (n : Imm4) (px : Fin 64) (py : Fin 32) : Prop :=
  ∃ r c, r < n.toNat ∧ c < 8 ∧ ((s.getV x).toNat + c) % 64 = px.val ∧
    ((s.getV y).toNat + r) % 32 = py.val ∧ (s.mem.get (s.i.toNat + r)).getLsbD (7 - c) = true

/-- The register `r` is a destination of `i`, or the flag register of a flag-setting `i`
(10_state.md R20, R21). -/
def MayWriteV (i : Instr) (r : Reg) : Prop :=
  match i with
  | .add x _ | .sub x _ | .shr x _ | .subn x _ | .shl x _ => r = x ∨ r = VF
  | .drw _ _ _ => r = VF
  | .ldk x _ | .addk x _ | .mov x _ | .or x _ | .and x _ | .xor x _ | .rnd x _ | .getdt x
  | .waitk x => r = x
  | .ldm x => r ≤ x
  | .cls | .ret | .sys _ | .jp _ | .call _ | .sek _ _ | .snek _ _ | .se _ _ | .sne _ _ | .ldi _
  | .jpv0 _ | .skp _ | .sknp _ | .setdt _ | .setst _ | .addi _ | .font _ | .bcd _ | .stm _ => False

/-- How an instruction that raises nothing leaves PC (10_state.md R23). -/
def PcRule (i : Instr) (s t : State) : Prop :=
  match i with
  | .jp nnn | .call nnn => t.pc.toNat = nnn.toNat
  | .ret => t.pc = s.top
  | .jpv0 nnn => t.pc.toNat = (s.getV 0).toNat + nnn.toNat
  | .sek _ _ | .snek _ _ | .se _ _ | .sne _ _ | .skp _ | .sknp _ => PcPlus 2 s t ∨ PcPlus 4 s t
  | .waitk _ => if s.key = 0 then t.pc = s.pc else PcPlus 2 s t
  | .cls | .sys _ | .ldk _ _ | .addk _ _ | .mov _ _ | .or _ _ | .and _ _ | .xor _ _ | .add _ _
  | .sub _ _ | .shr _ _ | .subn _ _ | .shl _ _ | .ldi _ | .rnd _ _ | .drw _ _ _ | .getdt _
  | .setdt _ | .setst _ | .addi _ | .font _ | .bcd _ | .stm _ | .ldm _ => PcPlus 2 s t

/-- The fatal condition that `i` raises in `s` with its FAULT_INFO, or none (60_exceptions.md R170,
R180). -/
def Raises (i : Instr) (s : State) : Option (FatalCondition × Nat) :=
  match i with
  | .call _ => if s.sp.toNat = 15 then some (.stackOverflow, s.pc.toNat) else none
  | .ret => if s.sp.toNat = 0 then some (.stackUnderflow, s.pc.toNat) else none
  | .skp x | .sknp x =>
      if 16 ≤ (s.getV x).toNat then some (.keyOutOfRange, (s.getV x).toNat) else none
  | .drw _ _ n =>
      if 0 < n.toNat ∧ 4096 ≤ s.i.toNat + n.toNat - 1 then
        some (.addressOutOfRange, max s.i.toNat 4096) else none
  | .bcd _ =>
      if 4096 ≤ s.i.toNat + 2 then some (.addressOutOfRange, max s.i.toNat 4096) else none
  | .stm x | .ldm x =>
      if 4096 ≤ s.i.toNat + x.val then some (.addressOutOfRange, max s.i.toNat 4096) else none
  | .cls | .sys _ | .jp _ | .sek _ _ | .snek _ _ | .se _ _ | .sne _ _ | .ldk _ _ | .addk _ _
  | .mov _ _ | .or _ _ | .and _ _ | .xor _ _ | .add _ _ | .sub _ _ | .shr _ _ | .subn _ _
  | .shl _ _ | .ldi _ | .jpv0 _ | .rnd _ _ | .getdt _ | .waitk _ | .setdt _ | .setst _ | .addi _
  | .font _ => none

end Sys2Proof.Machine
end

