-- ==== Sys2Proof/Certificates/Slice0/Obligations.lean ====
section
/-!
DEFINITION. The statements for the provers. Each is a rule of spec/ or follows from rules of spec/;
the docstring names them. OBLIGATIONS.json lists the same statements.
-/

open Sys2Proof Sys2Proof.Machine

/-! ### Encoding -/

/-- Words written out from the encodings of 30_encoding.md R72 and R75, one of each format, with
every operand field distinct, decode to their instructions; 0x5341 is unrecognised, because a fixed
digit must match exactly (the spec's decision D12, log 15). -/
def Obligations.SpecWordsDecode : Prop :=
  decode 0b0000000011100000#16 = .ok .cls ∧
  decode 0b0000000011101110#16 = .ok .ret ∧
  decode 0b0000000011100001#16 = .ok (.sys 0x0E1) ∧
  decode 0b0010101111001101#16 = .ok (.call 0xBCD) ∧
  decode 0b0011010110100110#16 = .ok (.sek 5 0xA6) ∧
  decode 0b0110010110100110#16 = .ok (.ldk 5 0xA6) ∧
  decode 0b1000001101110101#16 = .ok (.sub 3 7) ∧
  decode 0b1010000100100011#16 = .ok (.ldi 0x123) ∧
  decode 0b1101000100101111#16 = .ok (.drw 1 2 15) ∧
  decode 0b1110010010011110#16 = .ok (.skp 4) ∧
  decode 0b1111001101100101#16 = .ok (.ldm 3) ∧
  decode 0b0101001101000001#16 = .error (.unrecognised 0x5341)

/-- Decoding the word of a well-formed instruction gives it back with every operand
(30_encoding.md R72, R74, R75). -/
def Obligations.DecodeOfEncode : Prop :=
  ∀ i : Instr, i.wf = true → decode (encode i) = .ok i

/-- A word that decodes is the word of the instruction it decodes to, which is well-formed: no bit
of a recognised word is dropped (30_encoding.md R74, R75). This rests on the exact matching of fixed
digits, the spec's decision D12 (log 15). -/
def Obligations.EncodeOfDecode : Prop :=
  ∀ (op : Word) (i : Instr), decode op = .ok i → i.wf = true ∧ encode i = op

/-- The unrecognised words are exactly the five families of 30_encoding.md R77: a fixed digit must
match exactly, which is the spec's decision D12 (log 15). -/
def Obligations.UnrecognisedWordsExactly : Prop :=
  ∀ op : Word, decode op = .error (.unrecognised op) ↔
    ((op.toNat / 4096 = 5 ∨ op.toNat / 4096 = 9) ∧ op.toNat % 16 ≠ 0) ∨
    (op.toNat / 4096 = 8 ∧ (op.toNat % 16) ∈ [8, 9, 0xA, 0xB, 0xC, 0xD, 0xF]) ∨
    (op.toNat / 4096 = 14 ∧ (op.toNat % 256) ∉ [0x9E, 0xA1]) ∨
    (op.toNat / 4096 = 15 ∧
      (op.toNat % 256) ∉ [0x07, 0x0A, 0x15, 0x18, 0x1E, 0x29, 0x33, 0x55, 0x65])

/-! ### Memory -/

/-- The fetch: the big-endian word at PC and PC + 1, odd or even, up to 4094, and none from 4095 on
(20_memory.md R54, R56). -/
def Obligations.FetchIsBigEndian : Prop :=
  ∀ s : State,
    (s.pc.toNat ≤ 4094 → ∃ op, s.fetch = some op ∧
      op.toNat = 256 * (s.mem.get s.pc.toNat).toNat + (s.mem.get (s.pc.toNat + 1)).toNat) ∧
    (4095 ≤ s.pc.toNat → s.fetch = none)

/-- Storing a span of bytes keeps the canonical form, puts each byte at its address, and leaves
every other address alone (20_memory.md R53, R57). -/
def Obligations.SpanStoreThenRead : Prop :=
  ∀ (m : Memory) (a : Nat) (bytes : List Byte),
    (∀ j (h : j < bytes.length), (m.setSpan a bytes).get (a + j) = bytes[j]) ∧
    (∀ k, k < a ∨ a + bytes.length ≤ k → (m.setSpan a bytes).get k = m.get k) ∧
    (m.wf → a + bytes.length ≤ 4096 → (m.setSpan a bytes).wf)

/-- Canonical memories with the same contents are the same data (the model's own canonical form,
log 8). -/
def Obligations.EqualContentsEqualMemories : Prop :=
  ∀ m m' : Memory, m.wf → m'.wf → (∀ a, m.get a = m'.get a) → m = m'

/-- A store over the next instruction is what the next fetch returns (20_memory.md R63): after
`STM Vx` the word at the new PC, where both its bytes were stored, is made of V registers. -/
def Obligations.StoredBytesAreFetchedNext : Prop :=
  ∀ (x : Reg) (s : State) (j : Nat) (hj : j + 1 ≤ x.val),
    s.i.toNat + x.val < 4096 → (s.pc.toNat + 2) % 65536 = s.i.toNat + j →
    ∃ t op, exec (.stm x) s = .next t ∧ t.fetch = some op ∧
      op.toNat = 256 * (s.getV ⟨j, by omega⟩).toNat + (s.getV ⟨j + 1, by omega⟩).toNat

/-! ### The step -/

/-- A running machine whose bytes at PC decode to `i` runs exactly `i`, from the state with REDRAW
cleared, the result Ok and the step's byte at its port; `step` is that with the next free byte
(00_scope.md R12). -/
def Obligations.StepRunsDecodedInstruction : Prop :=
  ∀ (s : State) (op : Word) (i : Instr),
    s.halt = .running → s.fetch = some op → decode op = .ok i →
    (∀ rand, stepWith rand s =
      exec i { s with redraw := false, stepResult := .ok, randIn := rand }) ∧
    step s = exec i
      { s with
        redraw := false, stepResult := .ok,
        randIn := Config.rand s.randIdx, randIdx := s.randIdx + 1 }

/-- A word placed by the host at PC is what the step fetches, and nothing but its two bytes of
memory changes (20_memory.md R54, R55; log 18). -/
def Obligations.PlacedWordIsFetched : Prop :=
  ∀ (s : State) (w : Nat), s.pc.toNat ≤ 4094 →
    (s.withFetchWord 16 w).fetch = some (BitVec.ofNat 16 w) ∧
    OnlyChanges [.memory] s (s.withFetchWord 16 w) ∧
    ∀ a, a ≠ s.pc.toNat → a ≠ s.pc.toNat + 1 →
      (s.withFetchWord 16 w).mem.get a = s.mem.get a

/-- A fetch from 4095 or beyond raises `AddressOutOfRange` with FAULT_INFO = FAULT_PC = PC and
FAULT_OP = 0, and nothing else changes but REDRAW, which is cleared (60_exceptions.md R171, R178).
The latch and its record are the spec's decisions D13 to D15 (log 13). -/
def Obligations.FetchBeyondMemoryFaults : Prop :=
  ∀ s : State, s.halt = .running → 4095 ≤ s.pc.toNat →
    ∃ t, step s = .next t ∧ OnlyChanges [.latch, .result, .redraw, .rand] s t ∧
      t.redraw = false ∧ t.halt = .fatal .addressOutOfRange ∧ t.faultInfo.toNat = s.pc.toNat ∧
      t.faultPc = s.pc ∧ t.faultOp = 0 ∧ t.stepResult = .fault .addressOutOfRange

/-- An unrecognised word is reported as `Warn(PC, op)` and PC advances by 2; nothing else changes
but REDRAW, which is cleared (30_encoding.md R76). What the warning carries is the spec's decision D20
(log 17). -/
def Obligations.UnrecognisedWordWarns : Prop :=
  ∀ (s : State) (op : Word), s.halt = .running → s.fetch = some op →
    decode op = .error (.unrecognised op) →
    ∃ t, step s = .next t ∧ OnlyChanges [.pc, .result, .redraw, .rand] s t ∧
      t.redraw = false ∧ PcPlus 2 s t ∧ t.stepResult = .warn s.pc op

/-- A step of a running machine always answers a next state; a step of a halted one always reports
the halt (00_scope.md R12, R13; 60_exceptions.md R170, R189). What a halted machine does is the spec's
decision D15 (log 13); that a fatal condition is a next state, and a `Step` of a halted machine the
fault `halted`, is the model's form (log 2). -/
def Obligations.StepStopsOnlyWhenHalted : Prop :=
  ∀ s : State,
    (s.halt = .running → ∃ t, step s = .next t) ∧
    (∀ c, s.halt = .fatal c → step s = .fault (.halted c))

/-- After a step of a running machine REDRAW is 1 if and only if the instruction executed was `CLS`
or `DRW` and did not fault (10_state.md R30). -/
def Obligations.RedrawExactlyAfterDrawing : Prop :=
  ∀ s t : State, s.halt = .running → step s = .next t →
    (t.redraw = true ↔ t.halt = .running ∧
      ∃ op, s.fetch = some op ∧
        (decode op = .ok .cls ∨ ∃ x y n, decode op = .ok (.drw x y n)))

/-- Faults are precise: a step that raises a fatal condition changes nothing but the latch and its
record, the step's result and REDRAW, which is 0; FAULT_PC is PC, and FAULT_OP the fetched word, 0
when the fetch itself failed (60_exceptions.md R178). Precision, the latch and its record are the
spec's decisions D14 and D15 (log 13). -/
def Obligations.FaultingStepIsPrecise : Prop :=
  ∀ (s t : State) (c : FatalCondition), s.halt = .running → step s = .next t →
    t.halt = .fatal c →
    OnlyChanges [.latch, .result, .redraw, .rand] s t ∧ t.redraw = false ∧
      t.faultPc = s.pc ∧ t.faultOp = s.fetch.getD 0 ∧ t.stepResult = .fault c

/-! ### Whole-machine rules over all instructions -/

/-- Every instruction answers a next state, and raises exactly what the table of 60_exceptions.md
R170 says: where it raises nothing the latch is kept, and else the condition is taken with the
table's FAULT_INFO. The codes and the record are the spec's decisions D13 to D15 (log 13); that `SKP`
and `SKNP` fault at V[x] >= 16 is its decision D9 (log 14); that addresses do not wrap and are checked
before anything changes is by D8 and D14 (log 12). -/
def Obligations.FatalConditionsExactly : Prop :=
  ∀ (i : Instr) (s : State),
    (Raises i s = none → ∃ t, exec i s = .next t ∧ SamePart .latch s t ∧ SamePart .result s t) ∧
    (∀ c info, Raises i s = some (c, info) → FaultsWith c info i s)

/-- How every instruction that raises nothing leaves PC (10_state.md R23; that additions are modulo
65536 is the spec's decision D25, log 19). -/
def Obligations.ProgramCounterRule : Prop :=
  ∀ (i : Instr) (s : State), Raises i s = none → ∃ t, exec i s = .next t ∧ PcRule i s t

/-- A general register changes only as the destination of an instruction, or, for VF, as the flag
of one that defines a flag (10_state.md R20, R21). -/
def Obligations.RegistersChangeOnlyAsDestinations : Prop :=
  ∀ (i : Instr) (s t : State) (r : Reg), exec i s = .next t → t.getV r ≠ s.getV r → MayWriteV i r

/-- Memory is written by `BCD` and `STM` only (10_state.md R27). -/
def Obligations.MemoryWrittenOnlyByBcdAndStm : Prop :=
  ∀ (i : Instr) (s t : State) (a : Nat), exec i s = .next t → t.mem.get a ≠ s.mem.get a →
    ∃ x, i = .bcd x ∨ i = .stm x

/-- The framebuffer is written by `CLS` and `DRW` only (10_state.md R28). -/
def Obligations.CellsWrittenOnlyByClsAndDrw : Prop :=
  ∀ (i : Instr) (s t : State) (px : Fin 64) (py : Fin 32), exec i s = .next t →
    Framebuffer.cell t.fb px py ≠ Framebuffer.cell s.fb px py →
    i = .cls ∨ ∃ x y n, i = .drw x y n

/-- I is written by `LDI`, `ADDI` and `FONT` only; SP and the stack by `CALL` and `RET` only, the
stack's entries by `CALL` alone and never STK[0] unless SP wraps, which `CALL` refuses; DT by
`SETDT`, ST by `SETST`; KEY and tone by no instruction (10_state.md R22, R24, R25, R26, R29). -/
def Obligations.SpecialRegistersHaveOneWriter : Prop :=
  ∀ (i : Instr) (s t : State), exec i s = .next t →
    (t.i ≠ s.i → (∃ nnn, i = .ldi nnn) ∨ ∃ x, i = .addi x ∨ i = .font x) ∧
    (t.sp ≠ s.sp → i = .ret ∨ ∃ nnn, i = .call nnn) ∧
    (∀ k : Fin 16, t.stk[k.val] ≠ s.stk[k.val] → k ≠ 0 ∧ ∃ nnn, i = .call nnn) ∧
    (t.dt ≠ s.dt → ∃ x, i = .setdt x) ∧
    (t.st ≠ s.st → ∃ x, i = .setst x) ∧
    t.key = s.key ∧ t.tone = s.tone

/-! ### Control transfer (40_flow.md) -/

/-- `RET` (R100): PC from the stack and SP less one, or `StackUnderflow` with nothing else changed.
The latch and its record are the spec's decisions D13 to D15 (log 13). -/
def Obligations.RetPopsOrUnderflows : Prop :=
  ∀ s : State,
    (s.sp.toNat ≠ 0 → ∃ t, exec .ret s = .next t ∧ OnlyChanges [.pc, .stack] s t ∧
      t.pc = s.stk[s.sp.toNat]'s.sp.isLt ∧ t.sp.toNat = s.sp.toNat - 1 ∧
      ∀ k : Fin 16, t.stk[k.val] = s.stk[k.val]) ∧
    (s.sp.toNat = 0 → FaultsWith .stackUnderflow s.pc.toNat .ret s)

/-- `CALL` (R103): the first call writes STK[1], the fifteenth STK[15], the sixteenth overflows.
The latch and its record are the spec's decisions D13 to D15 (log 13). -/
def Obligations.CallPushesOrOverflows : Prop :=
  ∀ (nnn : Imm12) (s : State),
    (s.sp.toNat ≠ 15 → ∃ t, exec (.call nnn) s = .next t ∧ OnlyChanges [.pc, .stack] s t ∧
      t.sp.toNat = s.sp.toNat + 1 ∧
      (t.stk[t.sp.toNat]'t.sp.isLt).toNat = (s.pc.toNat + 2) % 65536 ∧
      (∀ k : Fin 16, k.val ≠ s.sp.toNat + 1 → t.stk[k.val] = s.stk[k.val]) ∧
      t.pc.toNat = nnn.toNat) ∧
    (s.sp.toNat = 15 → FaultsWith .stackOverflow s.pc.toNat (.call nnn) s)

/-- A `RET` executed anywhere after a `CALL` returns to the address after the call with the stack
pointer as before the call (R100, R103). -/
def Obligations.RetUndoesCall : Prop :=
  ∀ (nnn : Imm12) (s : State) (here : Word), s.sp.toNat ≠ 15 →
    ∃ t u, exec (.call nnn) s = .next t ∧ exec .ret (t.setPc here) = .next u ∧
      PcPlus 2 s u ∧ u.sp = s.sp ∧ OnlyChanges [.pc, .stack] s u

/-- `SYS`, `JP` and `JPV0` change nothing but PC: the no-op adds 2, the jump loads nnn, the offset
jump loads V[0] + nnn, not reduced to 12 bits (R101, R102, R104). -/
def Obligations.JumpsLoadPc : Prop :=
  ∀ (nnn : Imm12) (s : State),
    (∃ t, exec (.sys nnn) s = .next t ∧ OnlyChanges [.pc] s t ∧ PcPlus 2 s t) ∧
    (∃ t, exec (.jp nnn) s = .next t ∧ OnlyChanges [.pc] s t ∧ t.pc.toNat = nnn.toNat) ∧
    (∃ t, exec (.jpv0 nnn) s = .next t ∧ OnlyChanges [.pc] s t ∧
      t.pc.toNat = (s.getV 0).toNat + nnn.toNat)

/-! ### Register skips (41_skip.md) -/

/-- The four register skips add 4 to PC when their condition holds and 2 when it does not, and
change nothing else (R110 to R113). -/
def Obligations.RegisterSkips : Prop :=
  ∀ (x y : Reg) (nn : Imm8) (s : State),
    (∃ t, exec (.sek x nn) s = .next t ∧ OnlyChanges [.pc] s t ∧
      PcPlus (if s.getV x = nn then 4 else 2) s t) ∧
    (∃ t, exec (.snek x nn) s = .next t ∧ OnlyChanges [.pc] s t ∧
      PcPlus (if s.getV x ≠ nn then 4 else 2) s t) ∧
    (∃ t, exec (.se x y) s = .next t ∧ OnlyChanges [.pc] s t ∧
      PcPlus (if s.getV x = s.getV y then 4 else 2) s t) ∧
    (∃ t, exec (.sne x y) s = .next t ∧ OnlyChanges [.pc] s t ∧
      PcPlus (if s.getV x ≠ s.getV y then 4 else 2) s t)

/-! ### Register arithmetic and logic (42_alu.md) -/

/-- `LDK`, `ADDK` and `MOV` write V[x] alone: the constant, the wrapped sum, the copy; x = 15 writes
VF as any register (R121, R122, R123). -/
def Obligations.LoadAddMove : Prop :=
  ∀ (x y : Reg) (nn : Imm8) (s : State),
    (∃ t, exec (.ldk x nn) s = .next t ∧ OnlyChanges [.v, .pc] s t ∧ SameVBut [x] s t ∧
      t.getV x = nn ∧ PcPlus 2 s t) ∧
    (∃ t, exec (.addk x nn) s = .next t ∧ OnlyChanges [.v, .pc] s t ∧ SameVBut [x] s t ∧
      (t.getV x).toNat = ((s.getV x).toNat + nn.toNat) % 256 ∧ PcPlus 2 s t) ∧
    (∃ t, exec (.mov x y) s = .next t ∧ OnlyChanges [.v, .pc] s t ∧ SameVBut [x] s t ∧
      t.getV x = s.getV y ∧ PcPlus 2 s t)

/-- `OR`, `AND` and `XOR` act on each bit of V[x] and V[y] and write V[x] alone: VF is kept unless
x = 15 (R124, R125, R126). -/
def Obligations.LogicBitByBit : Prop :=
  ∀ (x y : Reg) (s : State),
    (∃ t, exec (.or x y) s = .next t ∧ OnlyChanges [.v, .pc] s t ∧ SameVBut [x] s t ∧
      (∀ k, (t.getV x).getLsbD k = ((s.getV x).getLsbD k || (s.getV y).getLsbD k)) ∧
      PcPlus 2 s t) ∧
    (∃ t, exec (.and x y) s = .next t ∧ OnlyChanges [.v, .pc] s t ∧ SameVBut [x] s t ∧
      (∀ k, (t.getV x).getLsbD k = ((s.getV x).getLsbD k && (s.getV y).getLsbD k)) ∧
      PcPlus 2 s t) ∧
    (∃ t, exec (.xor x y) s = .next t ∧ OnlyChanges [.v, .pc] s t ∧ SameVBut [x] s t ∧
      (∀ k, (t.getV x).getLsbD k = ((s.getV x).getLsbD k ^^ (s.getV y).getLsbD k)) ∧
      PcPlus 2 s t)

/-- `ADD` (R127), in every form: V[x] is the sum modulo 256, and VF the carry unless x = 15, where
the result overwrites it: the statement order of R10 is the spec's decision D5 (log 9). -/
def Obligations.AddSumAndCarry : Prop :=
  ∀ (x y : Reg) (s : State), ∃ t, exec (.add x y) s = .next t ∧ OnlyChanges [.v, .pc] s t ∧
    SameVBut [x, VF] s t ∧ PcPlus 2 s t ∧
    (t.getV x).toNat = ((s.getV x).toNat + (s.getV y).toNat) % 256 ∧
    (x ≠ VF → (t.getV VF).toNat = if (s.getV x).toNat + (s.getV y).toNat > 255 then 1 else 0)

/-- `SUB` and `SUBN` (R128, R130) where neither operand is VF: the difference modulo 256, and VF = 1
exactly when the minuend was strictly greater. -/
def Obligations.SubtractAndNoBorrow : Prop :=
  ∀ (x y : Reg) (s : State), x ≠ VF → y ≠ VF →
    (∃ t, exec (.sub x y) s = .next t ∧ OnlyChanges [.v, .pc] s t ∧ SameVBut [x, VF] s t ∧
      PcPlus 2 s t ∧
      (t.getV x).toNat = ((s.getV x).toNat + 256 - (s.getV y).toNat) % 256 ∧
      (t.getV VF).toNat = if (s.getV x).toNat > (s.getV y).toNat then 1 else 0) ∧
    (∃ t, exec (.subn x y) s = .next t ∧ OnlyChanges [.v, .pc] s t ∧ SameVBut [x, VF] s t ∧
      PcPlus 2 s t ∧
      (t.getV x).toNat = ((s.getV y).toNat + 256 - (s.getV x).toNat) % 256 ∧
      (t.getV VF).toNat = if (s.getV y).toNat > (s.getV x).toNat then 1 else 0)

/-- `SHR` and `SHL` (R129, R131) where x is not 15: V[x] shifted in place by one, VF the bit shifted
out, V[y] ignored. -/
def Obligations.ShiftsInPlace : Prop :=
  ∀ (x y : Reg) (s : State), x ≠ VF →
    (∃ t, exec (.shr x y) s = .next t ∧ OnlyChanges [.v, .pc] s t ∧ SameVBut [x, VF] s t ∧
      PcPlus 2 s t ∧
      (t.getV x).toNat = (s.getV x).toNat / 2 ∧ (t.getV VF).toNat = (s.getV x).toNat % 2) ∧
    (∃ t, exec (.shl x y) s = .next t ∧ OnlyChanges [.v, .pc] s t ∧ SameVBut [x, VF] s t ∧
      PcPlus 2 s t ∧
      (t.getV x).toNat = 2 * (s.getV x).toNat % 256 ∧ (t.getV VF).toNat = (s.getV x).toNat / 128)

/-- The table of 42_alu.md R132: the five flag-setting instructions with the flag register as an
operand, each with its frame. The statement order behind the table is the spec's own decision D5
(log 9). -/
def Obligations.FlagRegisterAsOperand : Prop :=
  ∀ (r : Reg) (s : State), r ≠ VF →
    (∃ t, exec (.add VF r) s = .next t ∧ WritesV [VF] s t ∧
      (t.getV VF).toNat = ((s.getV VF).toNat + (s.getV r).toNat) % 256) ∧
    (∃ t, exec (.add r VF) s = .next t ∧ WritesV [r, VF] s t ∧
      (t.getV r).toNat = ((s.getV r).toNat + (s.getV VF).toNat) % 256 ∧
      (t.getV VF).toNat = if (s.getV r).toNat + (s.getV VF).toNat > 255 then 1 else 0) ∧
    (∃ t, exec (.add VF VF) s = .next t ∧ WritesV [VF] s t ∧
      (t.getV VF).toNat = 2 * (s.getV VF).toNat % 256) ∧
    (∃ t, exec (.sub VF r) s = .next t ∧ WritesV [VF] s t ∧
      (t.getV VF).toNat =
        ((if (s.getV VF).toNat > (s.getV r).toNat then 1 else 0) + 256 - (s.getV r).toNat) % 256) ∧
    (∃ t, exec (.sub r VF) s = .next t ∧ WritesV [r, VF] s t ∧
      (t.getV VF).toNat = (if (s.getV r).toNat > (s.getV VF).toNat then 1 else 0) ∧
      (t.getV r).toNat =
        ((s.getV r).toNat + 256 - (if (s.getV r).toNat > (s.getV VF).toNat then 1 else 0)) % 256) ∧
    (∃ t, exec (.sub VF VF) s = .next t ∧ WritesV [VF] s t ∧
      t.getV VF = 0) ∧
    (∀ y, ∃ t, exec (.shr VF y) s = .next t ∧ WritesV [VF] s t ∧
      t.getV VF = 0) ∧
    (∃ t, exec (.shr r VF) s = .next t ∧ WritesV [r, VF] s t ∧
      (t.getV r).toNat = (s.getV r).toNat / 2 ∧ (t.getV VF).toNat = (s.getV r).toNat % 2) ∧
    (∃ t, exec (.subn VF r) s = .next t ∧ WritesV [VF] s t ∧
      (t.getV VF).toNat =
        ((s.getV r).toNat + 256 - (if (s.getV r).toNat > (s.getV VF).toNat then 1 else 0)) % 256) ∧
    (∃ t, exec (.subn r VF) s = .next t ∧ WritesV [r, VF] s t ∧
      (t.getV VF).toNat = (if (s.getV VF).toNat > (s.getV r).toNat then 1 else 0) ∧
      (t.getV r).toNat =
        ((if (s.getV VF).toNat > (s.getV r).toNat then 1 else 0) + 256 - (s.getV r).toNat) % 256) ∧
    (∃ t, exec (.subn VF VF) s = .next t ∧ WritesV [VF] s t ∧
      t.getV VF = 0) ∧
    (∀ y, ∃ t, exec (.shl VF y) s = .next t ∧ WritesV [VF] s t ∧
      (t.getV VF).toNat = 2 * ((s.getV VF).toNat / 128)) ∧
    (∃ t, exec (.shl r VF) s = .next t ∧ WritesV [r, VF] s t ∧
      (t.getV r).toNat = 2 * (s.getV r).toNat % 256 ∧ (t.getV VF).toNat = (s.getV r).toNat / 128)

/-- `RND` (R133): V[x] is the step's byte under the mask, for every byte; bits outside the mask
are 0. -/
def Obligations.RandomUnderMask : Prop :=
  ∀ (x : Reg) (nn : Imm8) (s : State), ∃ t, exec (.rnd x nn) s = .next t ∧
    OnlyChanges [.v, .pc] s t ∧ SameVBut [x] s t ∧ PcPlus 2 s t ∧
    ∀ k, (t.getV x).getLsbD k = (s.randIn.getLsbD k && nn.getLsbD k)

/-! ### Index register and memory (43_index_memory.md) -/

/-- `LDI` and `FONT` write I alone: nnn, and five times the whole of V[x] (R140, R142). -/
def Obligations.IndexLoadAndGlyph : Prop :=
  ∀ (x : Reg) (nnn : Imm12) (s : State),
    (∃ t, exec (.ldi nnn) s = .next t ∧ OnlyChanges [.i, .pc] s t ∧ t.i.toNat = nnn.toNat ∧
      PcPlus 2 s t) ∧
    (∃ t, exec (.font x) s = .next t ∧ OnlyChanges [.i, .pc] s t ∧
      t.i.toNat = 5 * (s.getV x).toNat ∧ PcPlus 2 s t)

/-- `ADDI` (R141): I alone is written, with the sum, and VF is no flag of it. That a sum above 65535
wraps is the spec's own decision D7 (log 11). -/
def Obligations.AddToIndexWraps : Prop :=
  ∀ (x : Reg) (s : State), ∃ t, exec (.addi x) s = .next t ∧ OnlyChanges [.i, .pc] s t ∧
    t.i.toNat = (s.i.toNat + (s.getV x).toNat) % 65536 ∧ PcPlus 2 s t

/-- `BCD` (R143): hundreds, tens and ones at I, I + 1, I + 2 and nowhere else, or a fault with
nothing written. The addresses and the fault are the spec's decisions D8, D13 to D15, D18 (logs 12,
13). -/
def Obligations.BcdStoresDigits : Prop :=
  ∀ (x : Reg) (s : State),
    (s.i.toNat + 2 < 4096 → ∃ t, exec (.bcd x) s = .next t ∧ OnlyChanges [.memory, .pc] s t ∧
      PcPlus 2 s t ∧
      (t.mem.get s.i.toNat).toNat = (s.getV x).toNat / 100 ∧
      (t.mem.get (s.i.toNat + 1)).toNat = (s.getV x).toNat / 10 % 10 ∧
      (t.mem.get (s.i.toNat + 2)).toNat = (s.getV x).toNat % 10 ∧
      ∀ a, a < s.i.toNat ∨ s.i.toNat + 2 < a → t.mem.get a = s.mem.get a) ∧
    (4096 ≤ s.i.toNat + 2 → FaultsWith .addressOutOfRange (max s.i.toNat 4096) (.bcd x) s)

/-- `STM` (R144): V[0] to V[x] at I to I + x and nowhere else, I unchanged, or a fault with nothing
written. The addresses, the fault and the unchanged I are the spec's decisions D8, D13 to D15, D18
(logs 12, 13). -/
def Obligations.StmStoresRange : Prop :=
  ∀ (x : Reg) (s : State),
    (s.i.toNat + x.val < 4096 → ∃ t, exec (.stm x) s = .next t ∧
      OnlyChanges [.memory, .pc] s t ∧ PcPlus 2 s t ∧
      (∀ r, r ≤ x → t.mem.get (s.i.toNat + r.val) = s.getV r) ∧
      ∀ a, a < s.i.toNat ∨ s.i.toNat + x.val < a → t.mem.get a = s.mem.get a) ∧
    (4096 ≤ s.i.toNat + x.val → FaultsWith .addressOutOfRange (max s.i.toNat 4096) (.stm x) s)

/-- `LDM` (R145): V[0] to V[x] from I to I + x, the registers above x and I unchanged, or a fault
with nothing loaded. The addresses, the fault and the unchanged I are the spec's decisions D8, D13 to
D15, D18 (logs 12, 13). -/
def Obligations.LdmLoadsRange : Prop :=
  ∀ (x : Reg) (s : State),
    (s.i.toNat + x.val < 4096 → ∃ t, exec (.ldm x) s = .next t ∧ OnlyChanges [.v, .pc] s t ∧
      PcPlus 2 s t ∧
      (∀ r, r ≤ x → t.getV r = s.mem.get (s.i.toNat + r.val)) ∧
      (∀ r, x < r → t.getV r = s.getV r)) ∧
    (4096 ≤ s.i.toNat + x.val → FaultsWith .addressOutOfRange (max s.i.toNat 4096) (.ldm x) s)

/-- Storing with `STM Vx` and reloading with `LDM Vx`, whatever the registers hold in between, gives
V[0] to V[x] back, because I is not advanced (R144, R145, R146; the spec's decision D18, log 12). -/
def Obligations.LdmUndoesStm : Prop :=
  ∀ (x : Reg) (s : State) (vs : Vector Byte 16), s.i.toNat + x.val < 4096 →
    ∃ t u, exec (.stm x) s = .next t ∧ exec (.ldm x) (t.setRegs vs) = .next u ∧
      u.i = s.i ∧ ∀ r, r ≤ x → u.getV r = s.getV r

/-! ### Display (44_display.md) -/

/-- `CLS` (R150): every cell 0, REDRAW set, VF not changed. -/
def Obligations.ClsClearsScreen : Prop :=
  ∀ s : State, ∃ t, exec .cls s = .next t ∧ OnlyChanges [.cells, .redraw, .pc] s t ∧
    (∀ px py, Framebuffer.cell t.fb px py = false) ∧ t.redraw = true ∧ PcPlus 2 s t

/-- `DRW` (R151, R152): every cell under a 1 bit of the sprite, wrapped in both directions, is
inverted and every other cell kept; VF tells whether an inverted cell was lit; REDRAW is set; or a
fault with nothing drawn. With n = 0 nothing is read and nothing drawn. That bit 7
is the leftmost column is the spec's decision D4 (log 10); the fault is by D8 and D13 to D15 (logs
12, 13). -/
def Obligations.DrwXorsSprite : Prop :=
  ∀ (x y : Reg) (n : Imm4) (s : State),
    (n = 0 ∨ s.i.toNat + n.toNat - 1 < 4096 →
      ∃ t, exec (.drw x y n) s = .next t ∧
        OnlyChanges [.v, .cells, .redraw, .pc] s t ∧ SameVBut [VF] s t ∧
        (∀ px py, SpriteLights s x y n px py →
          Framebuffer.cell t.fb px py = !Framebuffer.cell s.fb px py) ∧
        (∀ px py, ¬ SpriteLights s x y n px py →
          Framebuffer.cell t.fb px py = Framebuffer.cell s.fb px py) ∧
        ((∃ px py, SpriteLights s x y n px py ∧ Framebuffer.cell s.fb px py = true) →
          t.getV VF = 1) ∧
        ((¬ ∃ px py, SpriteLights s x y n px py ∧ Framebuffer.cell s.fb px py = true) →
          t.getV VF = 0) ∧
        t.redraw = true ∧ PcPlus 2 s t) ∧
    (n ≠ 0 → 4096 ≤ s.i.toNat + n.toNat - 1 →
      FaultsWith .addressOutOfRange (max s.i.toNat 4096) (.drw x y n) s)

/-- Drawing the same sprite twice at the same place restores every cell, and the second VF is 1
exactly when some 1 bit of the sprite fell on a cell that was dark before the first
(44_display.md R153 (a)). The place is the same where neither coordinate is VF, which the first
drawing overwrites. -/
def Obligations.DrawingTwiceRestoresScreen : Prop :=
  ∀ (x y : Reg) (n : Imm4) (s : State), x ≠ VF → y ≠ VF →
    (n = 0 ∨ s.i.toNat + n.toNat - 1 < 4096) →
    ∃ t u, exec (.drw x y n) s = .next t ∧ exec (.drw x y n) t = .next u ∧
      (∀ px py, Framebuffer.cell u.fb px py = Framebuffer.cell s.fb px py) ∧
      (u.getV VF = 1 ↔
        ∃ px py, SpriteLights s x y n px py ∧ Framebuffer.cell s.fb px py = false)

/-! ### Keys and timers (45_keys_timers.md) -/

/-- `SKP` and `SKNP` (R161, R162): a skip on the level of key V[x], or a fault when V[x] is 16 or
more, which is the spec's decision D9 (log 14). -/
def Obligations.KeySkips : Prop :=
  ∀ (x : Reg) (s : State),
    ((s.getV x).toNat < 16 →
      (∃ t, exec (.skp x) s = .next t ∧ OnlyChanges [.pc] s t ∧
        PcPlus (if s.key.getLsbD (s.getV x).toNat = true then 4 else 2) s t) ∧
      (∃ t, exec (.sknp x) s = .next t ∧ OnlyChanges [.pc] s t ∧
        PcPlus (if s.key.getLsbD (s.getV x).toNat = false then 4 else 2) s t)) ∧
    (16 ≤ (s.getV x).toNat →
      FaultsWith .keyOutOfRange (s.getV x).toNat (.skp x) s ∧
      FaultsWith .keyOutOfRange (s.getV x).toNat (.sknp x) s)

/-- `WAITK` (R163): with no key pressed nothing changes; else V[x] is the number of a pressed key,
whichever `KEY_SELECT` chooses, and PC advances. -/
def Obligations.WaitForKey : Prop :=
  ∀ (x : Reg) (s : State),
    ((∀ k : Fin 16, s.key.getLsbD k.val = false) → exec (.waitk x) s = .next s) ∧
    ((∃ k : Fin 16, s.key.getLsbD k.val = true) →
      ∃ t, exec (.waitk x) s = .next t ∧ OnlyChanges [.v, .pc] s t ∧ SameVBut [x] s t ∧
        PcPlus 2 s t ∧
        ∃ k : Fin 16, s.key.getLsbD k.val = true ∧ (t.getV x).toNat = k.val)

/-- `GETDT`, `SETDT` and `SETST` move one byte between V[x] and a timer (R164, R165, R166). -/
def Obligations.TimerAccess : Prop :=
  ∀ (x : Reg) (s : State),
    (∃ t, exec (.getdt x) s = .next t ∧ OnlyChanges [.v, .pc] s t ∧ SameVBut [x] s t ∧
      t.getV x = s.dt ∧ PcPlus 2 s t) ∧
    (∃ t, exec (.setdt x) s = .next t ∧ OnlyChanges [.dt, .pc] s t ∧ t.dt = s.getV x ∧
      PcPlus 2 s t) ∧
    (∃ t, exec (.setst x) s = .next t ∧ OnlyChanges [.st, .pc] s t ∧ t.st = s.getV x ∧
      PcPlus 2 s t)

/-! ### Events, reset and halting -/

/-- `Tick` (60_exceptions.md R183): both timers count down to 0 and stop there, the tone tells
whether ST was non-zero (the spec's decision D19, log 17), and nothing else of the state changes (the
port `step_result` is the subject of `WarningGoneAtNextEvent`). After a failed `Reset` the event is
refused: `OnlyResetFollowsFailedReset`. -/
def Obligations.TickCountsDown : Prop :=
  ∀ s : State, ¬ s.ResetFailed → ∃ t, respond .tick s = .next t ∧
    OnlyChanges [.dt, .st, .tone, .result] s t ∧
    t.dt.toNat = s.dt.toNat - 1 ∧ t.st.toNat = s.st.toNat - 1 ∧ (t.tone = true ↔ 0 < s.st.toNat)

/-- `SetKeys(k)` (45_keys_timers.md R160): every key bit at once, and nothing else of the state (the
port `step_result` is the subject of `WarningGoneAtNextEvent`). After a failed `Reset` the event is
refused, the model's choice of log 28: `OnlyResetFollowsFailedReset`. -/
def Obligations.SetKeysReplacesSnapshot : Prop :=
  ∀ (k : BitVec 16) (s : State), ¬ s.ResetFailed → ∃ t, respond (.setKeys k) s = .next t ∧
    OnlyChanges [.key, .result] s t ∧ ∀ j : Fin 16, t.pressed j.val = k.getLsbD j.val

/-- A decode warning is gone from the port when the next event starts (60_exceptions.md R177), here
`Tick` or `SetKeys`; that any other result stays at the port is the model's choice (log 17). -/
def Obligations.WarningGoneAtNextEvent : Prop :=
  ∀ (e : Event) (s : State), e = .tick ∨ (∃ k, e = .setKeys k) → ¬ s.ResetFailed →
    ∃ t, respond e s = .next t ∧
      ((∃ pc op, s.stepResult = .warn pc op) → t.stepResult = .none) ∧
      ((∀ pc op, s.stepResult ≠ .warn pc op) → SamePart .result s t)

/-- `Reset(program)` (70_reset_and_hazards.md R200) for every glyph table and from every state: the
memory image and the cleared machine, or, with a program over 3584 bytes, HALT = 1 with the saturated
length. The zeros of the registers, the framebuffer and the keys are the spec's decisions D1 and D2
(logs 6, 7); the latch that holds the failure and the zero fault record are its decision D15 (log 13);
Fault(1) at the port `step_result` is the model's choice (log 16). -/
def Obligations.ResetLoadsProgram : Prop :=
  ∀ (font : Vector Byte 80) (program : List Byte) (s : State),
    (program.length ≤ 3584 → ∃ t, respond (.reset font program) s = .next t ∧
      (∀ a (h : a < 80), t.mem.get a = font[a]) ∧
      (∀ a, 80 ≤ a → a < 512 → t.mem.get a = 0) ∧
      (∀ a (h : a < program.length), t.mem.get (512 + a) = program[a]) ∧
      (∀ a, 512 + program.length ≤ a → a < 4096 → t.mem.get a = 0) ∧
      t.pc = 0x200 ∧ t.sp = 0 ∧ (∀ r, t.getV r = 0) ∧ t.i = 0 ∧ t.dt = 0 ∧ t.st = 0 ∧
      (∀ k : Fin 16, t.stk[k.val] = 0) ∧ (∀ px py, Framebuffer.cell t.fb px py = false) ∧
      (∀ k : Fin 16, t.pressed k.val = false) ∧ t.redraw = false ∧ t.halt = .running ∧
      t.faultInfo = 0 ∧ t.faultPc = 0 ∧ t.faultOp = 0) ∧
    (3584 < program.length → ∃ t, respond (.reset font program) s = .next t ∧
      t.halt = .fatal .programTooLarge ∧ t.faultInfo.toNat = min program.length 131071 ∧
      t.stepResult = .fault .programTooLarge)

/-- The state after reset is `Reset` with the empty program and the default glyph table
(10_state.md R34, 20_memory.md R52; the table is PRESUMED, log 5). -/
def Obligations.ResetStateIsEmptyLoad : Prop :=
  State.reset.load (Vector.ofFn fun k : Fin 80 => Memory.background k.val) [] = State.reset

/-- A halted machine: until a `Reset`, no sequence of events changes V, I, PC, SP, STK, MEM, FB,
REDRAW or the latch (10_state.md R35 (e), 60_exceptions.md R189; the latch is the spec's decision D15,
log 13); unless it was a `Reset` that failed, every such sequence is answered. -/
def Obligations.HaltLastsUntilReset : Prop :=
  ∀ (events : List Event) (s : State), s.halt ≠ .running →
    (∀ e ∈ events, e.isReset = false) →
    (¬ s.ResetFailed → ∃ t, respondAll events s = .next t) ∧
    ∀ t, respondAll events s = .next t → OnlyChanges [.dt, .st, .key, .tone, .result] s t

/-- The halted machine's events one by one (60_exceptions.md R189): `Step` reports the fault again
and changes no state, `Tick` and `SetKeys` behave as when running, `Reset` works as always. What they
do while halted is the spec's decision D15 (log 13); that `step` answers the fault `halted`, and that
as an event it keeps the state with the fault at the port, is the model's form (log 2). After a failed
`Reset` see `OnlyResetFollowsFailedReset`. -/
def Obligations.HaltedMachineStillAnswersHost : Prop :=
  ∀ (s : State) (c : FatalCondition), s.halt = .fatal c → c ≠ .programTooLarge →
    (∀ rand, stepWith rand s = .fault (.halted c) ∧ ∃ t, respond (.step rand) s = .next t ∧
      OnlyChanges [.result] s t ∧ t.stepResult = .fault c) ∧
    (∃ t, respond .tick s = .next t ∧ t.dt.toNat = s.dt.toNat - 1 ∧
      t.st.toNat = s.st.toNat - 1) ∧
    (∀ k, ∃ t, respond (.setKeys k) s = .next t ∧ t.key = k) ∧
    ∀ font program, program.length ≤ 3584 →
      ∃ t, respond (.reset font program) s = .next t ∧ t.halt = .running

/-- Without a `Reset` in it, a sequence of events is a safe run exactly when it is answered and the
machine runs at its end: no halt is ever left (60_exceptions.md R179, R189; the spec's decision D15,
log 13). -/
def Obligations.SafeRunIffRunningAtEnd : Prop :=
  ∀ (events : List Event) (s : State), (∀ e ∈ events, e.isReset = false) →
    (SafeRun events s ↔ ∃ t, respondAll events s = .next t ∧ t.Running)

/-- In a TERMINAL state every further step leaves V, I, PC, SP, STK, DT, ST, MEM, FB and KEY
unchanged, clears REDRAW, and the state is TERMINAL again (70_reset_and_hazards.md R211; the
definition is the spec's decision D23, log 24). -/
def Obligations.TerminalStateIsFixed : Prop :=
  ∀ s : State, s.Terminal → ∃ t, step s = .next t ∧
    OnlyChanges [.redraw, .result, .rand] s t ∧ t.redraw = false ∧ t.Terminal

/-! ### Invariants -/

/-- The invariants `State.Inv` hold after reset: those of 10_state.md R35, with memory in the model's
canonical form (log 8), the fault record agreeing with the latch (the spec's decisions D13 to D15,
log 13), and STK[0] = 0 (its decision D1, log 6). -/
def Obligations.ResetMeetsInvariant : Prop := State.reset.Inv

/-- Every step keeps the invariants `State.Inv`, from every state that meets them: those of
10_state.md R35, with memory in the model's canonical form (log 8), the fault record agreeing with the
latch (the spec's decisions D13 to D15, log 13), and STK[0] = 0 (its decision D1, log 6). -/
def Obligations.StepKeepsInvariant : Prop :=
  ∀ s t : State, s.Inv → step s = .next t → t.Inv

/-- Every event that is answered keeps the invariants `State.Inv`, from every state that meets them:
those of 10_state.md R35, with memory in the model's canonical form (log 8; after a failed `Reset`,
whose other values are free, log 16), the fault record agreeing with the latch (the spec's decisions
D13 to D15, log 13), and STK[0] = 0 (its decision D1, log 6). -/
def Obligations.EventsKeepInvariant : Prop :=
  ∀ (e : Event) (s t : State), s.Inv → respond e s = .next t → t.Inv

/-! ### A failed `Reset` -/

/-- After a failed `Reset` only `Reset` follows (70_reset_and_hazards.md R201, 60_exceptions.md R176,
93 U9): a `Step` returns Fault(1), `Tick` and `SetKeys` are refused, so that a sequence of events
without a `Reset` is answered only if it is empty; a `Reset` is answered, with a legal program by a
running machine. That R201 goes before R189 and decision D15 for `Tick` and `SetKeys` is the model's choice
(log 28), and the faults by which it stops are the model's form (logs 2, 28). -/
def Obligations.OnlyResetFollowsFailedReset : Prop :=
  ∀ s : State, s.ResetFailed →
    (∀ rand, stepWith rand s = .fault (.halted .programTooLarge) ∧
      respond (.step rand) s = .fault (.halted .programTooLarge)) ∧
    respond .tick s = .fault .onlyResetFollows ∧
    (∀ k, respond (.setKeys k) s = .fault .onlyResetFollows) ∧
    (∀ events, (∀ e ∈ events, e.isReset = false) → ∀ t, respondAll events s = .next t →
      events = [] ∧ t = s) ∧
    (∀ font program, ∃ t, respond (.reset font program) s = .next t ∧
      (program.length ≤ 3584 → t.Running) ∧ (3584 < program.length → t.ResetFailed))
end

