-- ==== Sys2Proof/Laws/Decode.lean ====
section
/-!
SUPPORT. The fields of packed words, words rebuilt from their fields, and a word of two bytes as a
number (30_encoding.md R71, R72, 20_memory.md R54).
-/

namespace Sys2Proof

@[simp] theorem fieldClass_packNNN (c : Imm4) (n : Imm12) :
    fieldClass (packNNN c n) = c := by
  ext i hi
  interval_cases i <;> simp [fieldClass, packNNN]

@[simp] theorem fieldClass_packXNN (c : Imm4) (x : Reg) (n : Imm8) :
    fieldClass (packXNN c x n) = c := by
  ext i hi
  interval_cases i <;> simp [fieldClass, packXNN]

@[simp] theorem fieldClass_packXYN (c : Imm4) (x y : Reg) (n : Imm4) :
    fieldClass (packXYN c x y n) = c := by
  ext i hi
  interval_cases i <;> simp [fieldClass, packXYN]

@[simp] theorem fieldNNN_packNNN (c : Imm4) (n : Imm12) :
    fieldNNN (packNNN c n) = n := by
  ext i hi
  interval_cases i <;> simp [fieldNNN, packNNN]

@[simp] theorem fieldNN_packXNN (c : Imm4) (x : Reg) (n : Imm8) :
    fieldNN (packXNN c x n) = n := by
  ext i hi
  interval_cases i <;> simp [fieldNN, packXNN]

@[simp] theorem fieldN_packXYN (c : Imm4) (x y : Reg) (n : Imm4) :
    fieldN (packXYN c x y n) = n := by
  ext i hi
  interval_cases i <;> simp [fieldN, packXYN]

@[simp] theorem fieldX_packXNN (c : Imm4) (x : Reg) (n : Imm8) :
    fieldX (packXNN c x n) = x := by
  have h : (packXNN c x n).extractLsb' 8 4 = BitVec.ofFin x := by
    ext i hi
    interval_cases i <;> simp [packXNN]
  simp [fieldX, h]

@[simp] theorem fieldX_packXYN (c : Imm4) (x y : Reg) (n : Imm4) :
    fieldX (packXYN c x y n) = x := by
  have h : (packXYN c x y n).extractLsb' 8 4 = BitVec.ofFin x := by
    ext i hi
    interval_cases i <;> simp [packXYN]
  simp [fieldX, h]

@[simp] theorem fieldY_packXYN (c : Imm4) (x y : Reg) (n : Imm4) :
    fieldY (packXYN c x y n) = y := by
  have h : (packXYN c x y n).extractLsb' 4 4 = BitVec.ofFin y := by
    ext i hi
    interval_cases i <;> simp [packXYN]
  simp [fieldY, h]

/-! ### A word is its fields -/

theorem packNNN_fields (w : Word) : packNNN (fieldClass w) (fieldNNN w) = w := by
  ext i hi
  interval_cases i <;> simp [packNNN, fieldClass, fieldNNN]

theorem packXNN_fields (w : Word) : packXNN (fieldClass w) (fieldX w) (fieldNN w) = w := by
  have hx : BitVec.ofFin (w := 4) (fieldX w) = w.extractLsb' 8 4 := rfl
  ext i hi
  interval_cases i <;> simp [packXNN, fieldClass, fieldNN, hx]

theorem packXYN_fields (w : Word) :
    packXYN (fieldClass w) (fieldX w) (fieldY w) (fieldN w) = w := by
  have hx : BitVec.ofFin (w := 4) (fieldX w) = w.extractLsb' 8 4 := rfl
  have hy : BitVec.ofFin (w := 4) (fieldY w) = w.extractLsb' 4 4 := rfl
  ext i hi
  interval_cases i <;> simp [packXYN, fieldClass, fieldN, hx, hy]

/-! ### A word whose class, and minor opcode, are known is the word packed from its other fields -/

theorem packNNN_of_class {w : Word} (c : Imm4) (hc : (fieldClass w).toNat = c.toNat) :
    packNNN c (fieldNNN w) = w := by
  rw [← BitVec.eq_of_toNat_eq hc, packNNN_fields]

theorem packXNN_of_class {w : Word} (c : Imm4) (hc : (fieldClass w).toNat = c.toNat) :
    packXNN c (fieldX w) (fieldNN w) = w := by
  rw [← BitVec.eq_of_toNat_eq hc, packXNN_fields]

theorem packXYN_of_class {w : Word} (c : Imm4) (hc : (fieldClass w).toNat = c.toNat) :
    packXYN c (fieldX w) (fieldY w) (fieldN w) = w := by
  rw [← BitVec.eq_of_toNat_eq hc, packXYN_fields]

theorem packXNN_of_minor {w : Word} (c : Imm4) (m : Imm8) (hc : (fieldClass w).toNat = c.toNat)
    (hm : (fieldNN w).toNat = m.toNat) : packXNN c (fieldX w) m = w := by
  rw [← BitVec.eq_of_toNat_eq hm, packXNN_of_class c hc]

theorem packXYN_of_minor {w : Word} (c m : Imm4) (hc : (fieldClass w).toNat = c.toNat)
    (hm : (fieldN w).toNat = m.toNat) : packXYN c (fieldX w) (fieldY w) m = w := by
  rw [← BitVec.eq_of_toNat_eq hm, packXYN_of_class c hc]

/-! ### The fixed bits of a packed word -/

theorem packNNN_and_mask (c : Imm4) (n : Imm12) :
    packNNN c n &&& 0xF000#16 = c.setWidth 16 <<< 12 := by
  ext i hi
  interval_cases i <;> simp [packNNN]

theorem packXNN_and_mask (c : Imm4) (x : Reg) (n : Imm8) :
    packXNN c x n &&& 0xF000#16 = c.setWidth 16 <<< 12 := by
  ext i hi
  interval_cases i <;> simp [packXNN]

theorem packXNN_and_minor (c : Imm4) (x : Reg) (n : Imm8) :
    packXNN c x n &&& 0xF0FF#16 = (c.setWidth 16 <<< 12) ||| n.setWidth 16 := by
  ext i hi
  interval_cases i <;> simp [packXNN]

theorem packXYN_and_mask (c : Imm4) (x y : Reg) (n : Imm4) :
    packXYN c x y n &&& 0xF000#16 = c.setWidth 16 <<< 12 := by
  ext i hi
  interval_cases i <;> simp [packXYN]

theorem packXYN_and_minor (c : Imm4) (x y : Reg) (n : Imm4) :
    packXYN c x y n &&& 0xF00F#16 = (c.setWidth 16 <<< 12) ||| n.setWidth 16 := by
  ext i hi
  interval_cases i <;> simp [packXYN]

/-! ### A word of two bytes -/

/-- `256 * MEM[pc] + MEM[pc+1]` (20_memory.md R54). -/
theorem toNat_wordOfBytes (hi lo : Byte) :
    (wordOfBytes hi lo).toNat = 256 * hi.toNat + lo.toNat := by
  have hh := hi.isLt
  have hl := lo.isLt
  simp only [wordOfBytes, BitVec.toNat_or, BitVec.toNat_shiftLeft, BitVec.toNat_setWidth,
    Nat.shiftLeft_eq]
  rw [Nat.mod_eq_of_lt (by omega : hi.toNat < 2 ^ 16),
    Nat.mod_eq_of_lt (by omega : lo.toNat < 2 ^ 16),
    Nat.mod_eq_of_lt (by omega : hi.toNat * 2 ^ 8 < 2 ^ 16), Nat.mul_comm]
  exact (Nat.two_pow_add_eq_or_of_lt hl hi.toNat).symm

end Sys2Proof
end

