-- ==== Sys2Proof/Laws/Memory.lean ====
section
/-!
SUPPORT. What the memory operations do: read after write, the canonical form kept, and equal
contents of canonical memories being equal data.
-/

namespace Sys2Proof.Machine

namespace Memory

/-! ### Reading after an erase and an insert -/

theorem get_erase_same (m : Memory) (a : Nat) :
    get (m.filter (fun c => c.1 != a)) a = background a := by
  induction m with
  | nil => rfl
  | cons c rest ih =>
    by_cases h : c.1 = a
    · simpa [h] using ih
    · simpa [h, get] using ih

theorem get_erase_ne (m : Memory) {a k : Nat} (h : k ≠ a) :
    get (m.filter (fun c => c.1 != a)) k = get m k := by
  induction m with
  | nil => rfl
  | cons c rest ih =>
    by_cases hc : c.1 = a
    · have : c.1 ≠ k := fun e => h (e.symm.trans hc)
      simpa [hc, get, Ne.symm h] using ih
    · simp [hc, get, ih]

theorem get_insert_same (m : Memory) (a : Nat) (b : Byte) (h : ∀ c ∈ m, c.1 ≠ a) :
    get (insert (a, b) m) a = b := by
  induction m with
  | nil => simp [insert, get]
  | cons c rest ih =>
    have hc : c.1 ≠ a := h c (by simp)
    have hr : ∀ d ∈ rest, d.1 ≠ a := fun d hd => h d (by simp [hd])
    by_cases hlt : a < c.1
    · simp [insert, hlt, get]
    · simp [insert, hlt, get, hc, ih hr]

theorem get_insert_ne (m : Memory) {a k : Nat} (b : Byte) (h : k ≠ a) :
    get (insert (a, b) m) k = get m k := by
  induction m with
  | nil => simp [insert, get, Ne.symm h]
  | cons c rest ih =>
    by_cases hlt : a < c.1
    · simp [insert, hlt, get, Ne.symm h]
    · simp [insert, hlt, get, ih]

/-! ### Reading after a write (20_memory.md R53, R57) -/

@[simp] theorem get_set_same (m : Memory) (a : Nat) (b : Byte) : (m.set a b).get a = b := by
  unfold Memory.set
  split
  · rw [get_erase_same]; simp [*]
  · exact get_insert_same _ a b (by simp)

theorem get_set_ne (m : Memory) {a k : Nat} (b : Byte) (h : k ≠ a) :
    (m.set a b).get k = m.get k := by
  unfold Memory.set
  split
  · exact get_erase_ne m h
  · rw [get_insert_ne _ b h, get_erase_ne m h]

theorem get_set (m : Memory) (a k : Nat) (b : Byte) :
    (m.set a b).get k = if k = a then b else m.get k := by
  by_cases h : k = a
  · simp [h]
  · simp [h, get_set_ne m b h]

/-- A span store: the bytes at its addresses, everything else as before. -/
theorem get_setSpan (bytes : List Byte) (m : Memory) (a k : Nat) :
    (m.setSpan a bytes).get k =
      if h : a ≤ k ∧ k < a + bytes.length then bytes[k - a] else m.get k := by
  induction bytes generalizing m a with
  | nil => rw [setSpan, dif_neg (by simp)]
  | cons b rest ih =>
    rw [setSpan, ih, get_set]
    by_cases hk : k = a
    · subst hk
      simp
    · by_cases h : a + 1 ≤ k ∧ k < a + 1 + rest.length
      · rw [dif_pos h, dif_pos (by simp; omega), List.getElem_cons]
        have : k - a ≠ 0 := by omega
        simp [this, Nat.sub_sub]
      · rw [dif_neg h, dif_neg (by simp; omega), if_neg hk]

theorem get_setSpan_outside (bytes : List Byte) (m : Memory) {a k : Nat}
    (h : k < a ∨ a + bytes.length ≤ k) : (m.setSpan a bytes).get k = m.get k := by
  rw [get_setSpan, dif_neg (by omega)]

theorem get_setSpan_inside (bytes : List Byte) (m : Memory) (a j : Nat) (h : j < bytes.length) :
    (m.setSpan a bytes).get (a + j) = bytes[j] := by
  rw [get_setSpan, dif_pos (by omega)]
  simp

@[simp] theorem length_getSpan (m : Memory) (a n : Nat) : (m.getSpan a n).length = n := by
  simp [getSpan]

@[simp] theorem getElem_getSpan (m : Memory) (a n j : Nat) (h : j < (m.getSpan a n).length) :
    (m.getSpan a n)[j] = m.get (a + j) := by
  simp [getSpan]

/-! ### The canonical form -/

theorem wf_nil : wf [] := by simp [wf]

theorem mem_insert {c d : Host.Cell} {m : Memory} : d ∈ insert c m ↔ d = c ∨ d ∈ m := by
  induction m with
  | nil => simp [insert]
  | cons e rest ih =>
    unfold insert
    split
    · simp
    · simp only [List.mem_cons, ih]
      tauto

theorem wf_erase {m : Memory} (h : m.wf) (a : Nat) : wf (m.filter (fun c => c.1 != a)) :=
  ⟨h.1.filter _, fun c hc => h.2 c (List.mem_of_mem_filter hc)⟩

theorem pairwise_insert {a : Nat} {b : Byte} {m : Memory}
    (h : m.Pairwise (fun c d => c.1 < d.1)) (hne : ∀ c ∈ m, c.1 ≠ a) :
    (insert (a, b) m).Pairwise (fun c d => c.1 < d.1) := by
  induction m with
  | nil => simp [insert]
  | cons e rest ih =>
    rw [List.pairwise_cons] at h
    have he : e.1 ≠ a := hne e (by simp)
    unfold insert
    split
    · rename_i hlt
      refine List.pairwise_cons.2 ⟨fun d hd => ?_, List.pairwise_cons.2 h⟩
      rcases List.mem_cons.1 hd with rfl | hd
      · exact hlt
      · exact Nat.lt_trans hlt (h.1 d hd)
    · rename_i hlt
      refine List.pairwise_cons.2 ⟨fun d hd => ?_, ih h.2 (fun c hc => hne c (by simp [hc]))⟩
      rcases mem_insert.1 hd with rfl | hd
      · simp only at hlt ⊢; omega
      · exact h.1 d hd

/-- A write at a valid address keeps the canonical form. -/
theorem wf_set {m : Memory} (h : m.wf) {a : Nat} (ha : a < Config.memSize) (b : Byte) :
    (m.set a b).wf := by
  unfold Memory.set
  split
  · exact wf_erase h a
  · rename_i hb
    refine ⟨pairwise_insert (wf_erase h a).1 (by simp), fun c hc => ?_⟩
    rcases mem_insert.1 hc with rfl | hc
    · exact ⟨ha, hb⟩
    · exact (wf_erase h a).2 c hc

/-- A span store at valid addresses keeps the canonical form. -/
theorem wf_setSpan (bytes : List Byte) {m : Memory} (h : m.wf) {a : Nat}
    (ha : a + bytes.length ≤ Config.memSize) : (m.setSpan a bytes).wf := by
  induction bytes generalizing m a with
  | nil => exact h
  | cons b rest ih =>
    simp only [List.length_cons] at ha
    exact ih (wf_set h (by omega) b) (by omega)

/-- `normalize` is in canonical form. -/
theorem wf_normalize (m : Memory) : m.normalize.wf := by
  constructor
  · unfold normalize
    refine List.Pairwise.filterMap _ ?_ List.pairwise_lt_range
    intro a a' hlt c hc d hd
    split at hc <;> split at hd <;> simp_all
    rw [← hc, ← hd]
    exact hlt
  · intro c hc
    obtain ⟨a, ha, hc⟩ := List.mem_filterMap.1 hc
    split at hc
    · simp at hc
    · obtain rfl := Option.some.inj hc
      exact ⟨List.mem_range.1 ha, by assumption⟩

/-- The head of a canonical memory is the lowest address at which it differs from the reset
contents. -/
theorem get_of_lt_head {c : Host.Cell} {rest : Memory} (h : wf (c :: rest)) {k : Nat}
    (hk : k < c.1) : get (c :: rest) k = background k := by
  have hall : ∀ d ∈ c :: rest, d.1 ≠ k := by
    intro d hd
    rcases List.mem_cons.1 hd with rfl | hd
    · omega
    · have := (List.pairwise_cons.1 h.1).1 d hd
      omega
  clear h hk
  generalize c :: rest = m at hall
  induction m with
  | nil => rfl
  | cons e t ih =>
    rw [get, if_neg (hall e (by simp))]
    exact ih (fun d hd => hall d (by simp [hd]))

theorem wf_tail {c : Host.Cell} {rest : Memory} (h : wf (c :: rest)) : wf rest :=
  ⟨(List.pairwise_cons.1 h.1).2, fun d hd => h.2 d (by simp [hd])⟩

theorem get_tail_of_head {c : Host.Cell} {rest : Memory} (h : wf (c :: rest)) :
    get rest c.1 = background c.1 := by
  have hp := (List.pairwise_cons.1 h.1).1
  clear h
  induction rest with
  | nil => rfl
  | cons e t ih =>
    have := hp e (by simp)
    rw [get, if_neg (by omega)]
    exact ih (fun d hd => hp d (by simp [hd]))

end Memory

/-! ### Spans and ranges -/

theorem spanFits_iff (a n : Nat) :
    spanFits a n = true ↔ n = 0 ∨ a + n ≤ Config.memSize := by
  simp [spanFits]
  omega

@[simp] theorem length_bcdDigits (b : Byte) : (bcdDigits b).length = 3 := rfl

@[simp] theorem State.length_vRange (s : State) (x : Reg) : (s.vRange x).length = x.val + 1 := by
  simp [State.vRange]

@[simp] theorem State.getElem_vRange (s : State) (x : Reg) (j : Nat)
    (h : j < (s.vRange x).length) :
    (s.vRange x)[j] = s.getV ⟨j, by have := x.isLt; simp at h; omega⟩ := by
  simp [State.vRange, State.getV]

end Sys2Proof.Machine
end

