-- ==== Sys2Proof/Laws/State.lean ====
section
/-!
SUPPORT. One lemma per field per update of State, each true by rfl, so that no later proof unfolds a
record update; and the derived updates in terms of them.
-/

namespace Sys2Proof.Machine

variable (s : State)

/-! ### `setV` -/

@[simp] theorem State.setV_v (r : Reg) (b : Byte) : (s.setV r b).v = s.v.set r.val b := rfl
@[simp] theorem State.setV_i (r : Reg) (b : Byte) : (s.setV r b).i = s.i := rfl
@[simp] theorem State.setV_pc (r : Reg) (b : Byte) : (s.setV r b).pc = s.pc := rfl
@[simp] theorem State.setV_stk (r : Reg) (b : Byte) : (s.setV r b).stk = s.stk := rfl
@[simp] theorem State.setV_sp (r : Reg) (b : Byte) : (s.setV r b).sp = s.sp := rfl
@[simp] theorem State.setV_dt (r : Reg) (b : Byte) : (s.setV r b).dt = s.dt := rfl
@[simp] theorem State.setV_st (r : Reg) (b : Byte) : (s.setV r b).st = s.st := rfl
@[simp] theorem State.setV_mem (r : Reg) (b : Byte) : (s.setV r b).mem = s.mem := rfl
@[simp] theorem State.setV_fb (r : Reg) (b : Byte) : (s.setV r b).fb = s.fb := rfl
@[simp] theorem State.setV_key (r : Reg) (b : Byte) : (s.setV r b).key = s.key := rfl
@[simp] theorem State.setV_redraw (r : Reg) (b : Byte) : (s.setV r b).redraw = s.redraw := rfl
@[simp] theorem State.setV_halt (r : Reg) (b : Byte) : (s.setV r b).halt = s.halt := rfl
@[simp] theorem State.setV_faultInfo (r : Reg) (b : Byte) :
    (s.setV r b).faultInfo = s.faultInfo := rfl
@[simp] theorem State.setV_faultPc (r : Reg) (b : Byte) : (s.setV r b).faultPc = s.faultPc := rfl
@[simp] theorem State.setV_faultOp (r : Reg) (b : Byte) : (s.setV r b).faultOp = s.faultOp := rfl
@[simp] theorem State.setV_stepResult (r : Reg) (b : Byte) :
    (s.setV r b).stepResult = s.stepResult := rfl
@[simp] theorem State.setV_tone (r : Reg) (b : Byte) : (s.setV r b).tone = s.tone := rfl
@[simp] theorem State.setV_randIn (r : Reg) (b : Byte) : (s.setV r b).randIn = s.randIn := rfl
@[simp] theorem State.setV_randIdx (r : Reg) (b : Byte) : (s.setV r b).randIdx = s.randIdx := rfl

/-! ### `setI` -/

@[simp] theorem State.setI_v (w : Word) : (s.setI w).v = s.v := rfl
@[simp] theorem State.setI_i (w : Word) : (s.setI w).i = w := rfl
@[simp] theorem State.setI_pc (w : Word) : (s.setI w).pc = s.pc := rfl
@[simp] theorem State.setI_stk (w : Word) : (s.setI w).stk = s.stk := rfl
@[simp] theorem State.setI_sp (w : Word) : (s.setI w).sp = s.sp := rfl
@[simp] theorem State.setI_dt (w : Word) : (s.setI w).dt = s.dt := rfl
@[simp] theorem State.setI_st (w : Word) : (s.setI w).st = s.st := rfl
@[simp] theorem State.setI_mem (w : Word) : (s.setI w).mem = s.mem := rfl
@[simp] theorem State.setI_fb (w : Word) : (s.setI w).fb = s.fb := rfl
@[simp] theorem State.setI_key (w : Word) : (s.setI w).key = s.key := rfl
@[simp] theorem State.setI_redraw (w : Word) : (s.setI w).redraw = s.redraw := rfl
@[simp] theorem State.setI_halt (w : Word) : (s.setI w).halt = s.halt := rfl
@[simp] theorem State.setI_faultInfo (w : Word) : (s.setI w).faultInfo = s.faultInfo := rfl
@[simp] theorem State.setI_faultPc (w : Word) : (s.setI w).faultPc = s.faultPc := rfl
@[simp] theorem State.setI_faultOp (w : Word) : (s.setI w).faultOp = s.faultOp := rfl
@[simp] theorem State.setI_stepResult (w : Word) : (s.setI w).stepResult = s.stepResult := rfl
@[simp] theorem State.setI_tone (w : Word) : (s.setI w).tone = s.tone := rfl
@[simp] theorem State.setI_randIn (w : Word) : (s.setI w).randIn = s.randIn := rfl
@[simp] theorem State.setI_randIdx (w : Word) : (s.setI w).randIdx = s.randIdx := rfl

/-! ### `setPc` -/

@[simp] theorem State.setPc_v (w : Word) : (s.setPc w).v = s.v := rfl
@[simp] theorem State.setPc_i (w : Word) : (s.setPc w).i = s.i := rfl
@[simp] theorem State.setPc_pc (w : Word) : (s.setPc w).pc = w := rfl
@[simp] theorem State.setPc_stk (w : Word) : (s.setPc w).stk = s.stk := rfl
@[simp] theorem State.setPc_sp (w : Word) : (s.setPc w).sp = s.sp := rfl
@[simp] theorem State.setPc_dt (w : Word) : (s.setPc w).dt = s.dt := rfl
@[simp] theorem State.setPc_st (w : Word) : (s.setPc w).st = s.st := rfl
@[simp] theorem State.setPc_mem (w : Word) : (s.setPc w).mem = s.mem := rfl
@[simp] theorem State.setPc_fb (w : Word) : (s.setPc w).fb = s.fb := rfl
@[simp] theorem State.setPc_key (w : Word) : (s.setPc w).key = s.key := rfl
@[simp] theorem State.setPc_redraw (w : Word) : (s.setPc w).redraw = s.redraw := rfl
@[simp] theorem State.setPc_halt (w : Word) : (s.setPc w).halt = s.halt := rfl
@[simp] theorem State.setPc_faultInfo (w : Word) : (s.setPc w).faultInfo = s.faultInfo := rfl
@[simp] theorem State.setPc_faultPc (w : Word) : (s.setPc w).faultPc = s.faultPc := rfl
@[simp] theorem State.setPc_faultOp (w : Word) : (s.setPc w).faultOp = s.faultOp := rfl
@[simp] theorem State.setPc_stepResult (w : Word) : (s.setPc w).stepResult = s.stepResult := rfl
@[simp] theorem State.setPc_tone (w : Word) : (s.setPc w).tone = s.tone := rfl
@[simp] theorem State.setPc_randIn (w : Word) : (s.setPc w).randIn = s.randIn := rfl
@[simp] theorem State.setPc_randIdx (w : Word) : (s.setPc w).randIdx = s.randIdx := rfl

/-! ### `setDt` -/

@[simp] theorem State.setDt_v (b : Byte) : (s.setDt b).v = s.v := rfl
@[simp] theorem State.setDt_i (b : Byte) : (s.setDt b).i = s.i := rfl
@[simp] theorem State.setDt_pc (b : Byte) : (s.setDt b).pc = s.pc := rfl
@[simp] theorem State.setDt_stk (b : Byte) : (s.setDt b).stk = s.stk := rfl
@[simp] theorem State.setDt_sp (b : Byte) : (s.setDt b).sp = s.sp := rfl
@[simp] theorem State.setDt_dt (b : Byte) : (s.setDt b).dt = b := rfl
@[simp] theorem State.setDt_st (b : Byte) : (s.setDt b).st = s.st := rfl
@[simp] theorem State.setDt_mem (b : Byte) : (s.setDt b).mem = s.mem := rfl
@[simp] theorem State.setDt_fb (b : Byte) : (s.setDt b).fb = s.fb := rfl
@[simp] theorem State.setDt_key (b : Byte) : (s.setDt b).key = s.key := rfl
@[simp] theorem State.setDt_redraw (b : Byte) : (s.setDt b).redraw = s.redraw := rfl
@[simp] theorem State.setDt_halt (b : Byte) : (s.setDt b).halt = s.halt := rfl
@[simp] theorem State.setDt_faultInfo (b : Byte) : (s.setDt b).faultInfo = s.faultInfo := rfl
@[simp] theorem State.setDt_faultPc (b : Byte) : (s.setDt b).faultPc = s.faultPc := rfl
@[simp] theorem State.setDt_faultOp (b : Byte) : (s.setDt b).faultOp = s.faultOp := rfl
@[simp] theorem State.setDt_stepResult (b : Byte) : (s.setDt b).stepResult = s.stepResult := rfl
@[simp] theorem State.setDt_tone (b : Byte) : (s.setDt b).tone = s.tone := rfl
@[simp] theorem State.setDt_randIn (b : Byte) : (s.setDt b).randIn = s.randIn := rfl
@[simp] theorem State.setDt_randIdx (b : Byte) : (s.setDt b).randIdx = s.randIdx := rfl

/-! ### `setSt` -/

@[simp] theorem State.setSt_v (b : Byte) : (s.setSt b).v = s.v := rfl
@[simp] theorem State.setSt_i (b : Byte) : (s.setSt b).i = s.i := rfl
@[simp] theorem State.setSt_pc (b : Byte) : (s.setSt b).pc = s.pc := rfl
@[simp] theorem State.setSt_stk (b : Byte) : (s.setSt b).stk = s.stk := rfl
@[simp] theorem State.setSt_sp (b : Byte) : (s.setSt b).sp = s.sp := rfl
@[simp] theorem State.setSt_dt (b : Byte) : (s.setSt b).dt = s.dt := rfl
@[simp] theorem State.setSt_st (b : Byte) : (s.setSt b).st = b := rfl
@[simp] theorem State.setSt_mem (b : Byte) : (s.setSt b).mem = s.mem := rfl
@[simp] theorem State.setSt_fb (b : Byte) : (s.setSt b).fb = s.fb := rfl
@[simp] theorem State.setSt_key (b : Byte) : (s.setSt b).key = s.key := rfl
@[simp] theorem State.setSt_redraw (b : Byte) : (s.setSt b).redraw = s.redraw := rfl
@[simp] theorem State.setSt_halt (b : Byte) : (s.setSt b).halt = s.halt := rfl
@[simp] theorem State.setSt_faultInfo (b : Byte) : (s.setSt b).faultInfo = s.faultInfo := rfl
@[simp] theorem State.setSt_faultPc (b : Byte) : (s.setSt b).faultPc = s.faultPc := rfl
@[simp] theorem State.setSt_faultOp (b : Byte) : (s.setSt b).faultOp = s.faultOp := rfl
@[simp] theorem State.setSt_stepResult (b : Byte) : (s.setSt b).stepResult = s.stepResult := rfl
@[simp] theorem State.setSt_tone (b : Byte) : (s.setSt b).tone = s.tone := rfl
@[simp] theorem State.setSt_randIn (b : Byte) : (s.setSt b).randIn = s.randIn := rfl
@[simp] theorem State.setSt_randIdx (b : Byte) : (s.setSt b).randIdx = s.randIdx := rfl

/-! ### `setMem` -/

@[simp] theorem State.setMem_v (m : Memory) : (s.setMem m).v = s.v := rfl
@[simp] theorem State.setMem_i (m : Memory) : (s.setMem m).i = s.i := rfl
@[simp] theorem State.setMem_pc (m : Memory) : (s.setMem m).pc = s.pc := rfl
@[simp] theorem State.setMem_stk (m : Memory) : (s.setMem m).stk = s.stk := rfl
@[simp] theorem State.setMem_sp (m : Memory) : (s.setMem m).sp = s.sp := rfl
@[simp] theorem State.setMem_dt (m : Memory) : (s.setMem m).dt = s.dt := rfl
@[simp] theorem State.setMem_st (m : Memory) : (s.setMem m).st = s.st := rfl
@[simp] theorem State.setMem_mem (m : Memory) : (s.setMem m).mem = m := rfl
@[simp] theorem State.setMem_fb (m : Memory) : (s.setMem m).fb = s.fb := rfl
@[simp] theorem State.setMem_key (m : Memory) : (s.setMem m).key = s.key := rfl
@[simp] theorem State.setMem_redraw (m : Memory) : (s.setMem m).redraw = s.redraw := rfl
@[simp] theorem State.setMem_halt (m : Memory) : (s.setMem m).halt = s.halt := rfl
@[simp] theorem State.setMem_faultInfo (m : Memory) : (s.setMem m).faultInfo = s.faultInfo := rfl
@[simp] theorem State.setMem_faultPc (m : Memory) : (s.setMem m).faultPc = s.faultPc := rfl
@[simp] theorem State.setMem_faultOp (m : Memory) : (s.setMem m).faultOp = s.faultOp := rfl
@[simp] theorem State.setMem_stepResult (m : Memory) : (s.setMem m).stepResult = s.stepResult := rfl
@[simp] theorem State.setMem_tone (m : Memory) : (s.setMem m).tone = s.tone := rfl
@[simp] theorem State.setMem_randIn (m : Memory) : (s.setMem m).randIn = s.randIn := rfl
@[simp] theorem State.setMem_randIdx (m : Memory) : (s.setMem m).randIdx = s.randIdx := rfl

/-! ### `redrawWith` -/

@[simp] theorem State.redrawWith_v (fb : Framebuffer) : (s.redrawWith fb).v = s.v := rfl
@[simp] theorem State.redrawWith_i (fb : Framebuffer) : (s.redrawWith fb).i = s.i := rfl
@[simp] theorem State.redrawWith_pc (fb : Framebuffer) : (s.redrawWith fb).pc = s.pc := rfl
@[simp] theorem State.redrawWith_stk (fb : Framebuffer) : (s.redrawWith fb).stk = s.stk := rfl
@[simp] theorem State.redrawWith_sp (fb : Framebuffer) : (s.redrawWith fb).sp = s.sp := rfl
@[simp] theorem State.redrawWith_dt (fb : Framebuffer) : (s.redrawWith fb).dt = s.dt := rfl
@[simp] theorem State.redrawWith_st (fb : Framebuffer) : (s.redrawWith fb).st = s.st := rfl
@[simp] theorem State.redrawWith_mem (fb : Framebuffer) : (s.redrawWith fb).mem = s.mem := rfl
@[simp] theorem State.redrawWith_fb (fb : Framebuffer) : (s.redrawWith fb).fb = fb := rfl
@[simp] theorem State.redrawWith_key (fb : Framebuffer) : (s.redrawWith fb).key = s.key := rfl
@[simp] theorem State.redrawWith_redraw (fb : Framebuffer) : (s.redrawWith fb).redraw = true := rfl
@[simp] theorem State.redrawWith_halt (fb : Framebuffer) : (s.redrawWith fb).halt = s.halt := rfl
@[simp] theorem State.redrawWith_faultInfo (fb : Framebuffer) :
    (s.redrawWith fb).faultInfo = s.faultInfo := rfl
@[simp] theorem State.redrawWith_faultPc (fb : Framebuffer) :
    (s.redrawWith fb).faultPc = s.faultPc := rfl
@[simp] theorem State.redrawWith_faultOp (fb : Framebuffer) :
    (s.redrawWith fb).faultOp = s.faultOp := rfl
@[simp] theorem State.redrawWith_stepResult (fb : Framebuffer) :
    (s.redrawWith fb).stepResult = s.stepResult := rfl
@[simp] theorem State.redrawWith_tone (fb : Framebuffer) : (s.redrawWith fb).tone = s.tone := rfl
@[simp] theorem State.redrawWith_randIn (fb : Framebuffer) :
    (s.redrawWith fb).randIn = s.randIn := rfl
@[simp] theorem State.redrawWith_randIdx (fb : Framebuffer) :
    (s.redrawWith fb).randIdx = s.randIdx := rfl

/-! ### `push` -/

@[simp] theorem State.push_v (w : Word) : (s.push w).v = s.v := rfl
@[simp] theorem State.push_i (w : Word) : (s.push w).i = s.i := rfl
@[simp] theorem State.push_pc (w : Word) : (s.push w).pc = s.pc := rfl
@[simp] theorem State.push_stk (w : Word) : (s.push w).stk = s.stk.set (s.sp + 1).toNat w (s.sp + 1).isLt := rfl
@[simp] theorem State.push_sp (w : Word) : (s.push w).sp = s.sp + 1 := rfl
@[simp] theorem State.push_dt (w : Word) : (s.push w).dt = s.dt := rfl
@[simp] theorem State.push_st (w : Word) : (s.push w).st = s.st := rfl
@[simp] theorem State.push_mem (w : Word) : (s.push w).mem = s.mem := rfl
@[simp] theorem State.push_fb (w : Word) : (s.push w).fb = s.fb := rfl
@[simp] theorem State.push_key (w : Word) : (s.push w).key = s.key := rfl
@[simp] theorem State.push_redraw (w : Word) : (s.push w).redraw = s.redraw := rfl
@[simp] theorem State.push_halt (w : Word) : (s.push w).halt = s.halt := rfl
@[simp] theorem State.push_faultInfo (w : Word) : (s.push w).faultInfo = s.faultInfo := rfl
@[simp] theorem State.push_faultPc (w : Word) : (s.push w).faultPc = s.faultPc := rfl
@[simp] theorem State.push_faultOp (w : Word) : (s.push w).faultOp = s.faultOp := rfl
@[simp] theorem State.push_stepResult (w : Word) : (s.push w).stepResult = s.stepResult := rfl
@[simp] theorem State.push_tone (w : Word) : (s.push w).tone = s.tone := rfl
@[simp] theorem State.push_randIn (w : Word) : (s.push w).randIn = s.randIn := rfl
@[simp] theorem State.push_randIdx (w : Word) : (s.push w).randIdx = s.randIdx := rfl

/-! ### `pop` -/

@[simp] theorem State.pop_v : s.pop.v = s.v := rfl
@[simp] theorem State.pop_i : s.pop.i = s.i := rfl
@[simp] theorem State.pop_pc : s.pop.pc = s.pc := rfl
@[simp] theorem State.pop_stk : s.pop.stk = s.stk := rfl
@[simp] theorem State.pop_sp : s.pop.sp = s.sp - 1 := rfl
@[simp] theorem State.pop_dt : s.pop.dt = s.dt := rfl
@[simp] theorem State.pop_st : s.pop.st = s.st := rfl
@[simp] theorem State.pop_mem : s.pop.mem = s.mem := rfl
@[simp] theorem State.pop_fb : s.pop.fb = s.fb := rfl
@[simp] theorem State.pop_key : s.pop.key = s.key := rfl
@[simp] theorem State.pop_redraw : s.pop.redraw = s.redraw := rfl
@[simp] theorem State.pop_halt : s.pop.halt = s.halt := rfl
@[simp] theorem State.pop_faultInfo : s.pop.faultInfo = s.faultInfo := rfl
@[simp] theorem State.pop_faultPc : s.pop.faultPc = s.faultPc := rfl
@[simp] theorem State.pop_faultOp : s.pop.faultOp = s.faultOp := rfl
@[simp] theorem State.pop_stepResult : s.pop.stepResult = s.stepResult := rfl
@[simp] theorem State.pop_tone : s.pop.tone = s.tone := rfl
@[simp] theorem State.pop_randIn : s.pop.randIn = s.randIn := rfl
@[simp] theorem State.pop_randIdx : s.pop.randIdx = s.randIdx := rfl

/-! ### `setRegs` -/

@[simp] theorem State.setRegs_v (vs : Vector Byte 16) :
    (s.setRegs vs).v = vs := rfl
@[simp] theorem State.setRegs_i (vs : Vector Byte 16) : (s.setRegs vs).i = s.i := rfl
@[simp] theorem State.setRegs_pc (vs : Vector Byte 16) : (s.setRegs vs).pc = s.pc := rfl
@[simp] theorem State.setRegs_stk (vs : Vector Byte 16) : (s.setRegs vs).stk = s.stk := rfl
@[simp] theorem State.setRegs_sp (vs : Vector Byte 16) : (s.setRegs vs).sp = s.sp := rfl
@[simp] theorem State.setRegs_dt (vs : Vector Byte 16) : (s.setRegs vs).dt = s.dt := rfl
@[simp] theorem State.setRegs_st (vs : Vector Byte 16) : (s.setRegs vs).st = s.st := rfl
@[simp] theorem State.setRegs_mem (vs : Vector Byte 16) : (s.setRegs vs).mem = s.mem := rfl
@[simp] theorem State.setRegs_fb (vs : Vector Byte 16) : (s.setRegs vs).fb = s.fb := rfl
@[simp] theorem State.setRegs_key (vs : Vector Byte 16) : (s.setRegs vs).key = s.key := rfl
@[simp] theorem State.setRegs_redraw (vs : Vector Byte 16) :
    (s.setRegs vs).redraw = s.redraw := rfl
@[simp] theorem State.setRegs_halt (vs : Vector Byte 16) : (s.setRegs vs).halt = s.halt := rfl
@[simp] theorem State.setRegs_faultInfo (vs : Vector Byte 16) :
    (s.setRegs vs).faultInfo = s.faultInfo := rfl
@[simp] theorem State.setRegs_faultPc (vs : Vector Byte 16) :
    (s.setRegs vs).faultPc = s.faultPc := rfl
@[simp] theorem State.setRegs_faultOp (vs : Vector Byte 16) :
    (s.setRegs vs).faultOp = s.faultOp := rfl
@[simp] theorem State.setRegs_stepResult (vs : Vector Byte 16) :
    (s.setRegs vs).stepResult = s.stepResult := rfl
@[simp] theorem State.setRegs_tone (vs : Vector Byte 16) : (s.setRegs vs).tone = s.tone := rfl
@[simp] theorem State.setRegs_randIn (vs : Vector Byte 16) :
    (s.setRegs vs).randIn = s.randIn := rfl
@[simp] theorem State.setRegs_randIdx (vs : Vector Byte 16) :
    (s.setRegs vs).randIdx = s.randIdx := rfl

/-! ### `raise` -/

@[simp] theorem State.raise_v (c : FatalCondition) (info : BitVec 17) (op : Word) :
    (s.raise c info op).v = s.v := rfl
@[simp] theorem State.raise_i (c : FatalCondition) (info : BitVec 17) (op : Word) :
    (s.raise c info op).i = s.i := rfl
@[simp] theorem State.raise_pc (c : FatalCondition) (info : BitVec 17) (op : Word) :
    (s.raise c info op).pc = s.pc := rfl
@[simp] theorem State.raise_stk (c : FatalCondition) (info : BitVec 17) (op : Word) :
    (s.raise c info op).stk = s.stk := rfl
@[simp] theorem State.raise_sp (c : FatalCondition) (info : BitVec 17) (op : Word) :
    (s.raise c info op).sp = s.sp := rfl
@[simp] theorem State.raise_dt (c : FatalCondition) (info : BitVec 17) (op : Word) :
    (s.raise c info op).dt = s.dt := rfl
@[simp] theorem State.raise_st (c : FatalCondition) (info : BitVec 17) (op : Word) :
    (s.raise c info op).st = s.st := rfl
@[simp] theorem State.raise_mem (c : FatalCondition) (info : BitVec 17) (op : Word) :
    (s.raise c info op).mem = s.mem := rfl
@[simp] theorem State.raise_fb (c : FatalCondition) (info : BitVec 17) (op : Word) :
    (s.raise c info op).fb = s.fb := rfl
@[simp] theorem State.raise_key (c : FatalCondition) (info : BitVec 17) (op : Word) :
    (s.raise c info op).key = s.key := rfl
@[simp] theorem State.raise_redraw (c : FatalCondition) (info : BitVec 17) (op : Word) :
    (s.raise c info op).redraw = s.redraw := rfl
@[simp] theorem State.raise_halt (c : FatalCondition) (info : BitVec 17) (op : Word) :
    (s.raise c info op).halt = .fatal c := rfl
@[simp] theorem State.raise_faultInfo (c : FatalCondition) (info : BitVec 17) (op : Word) :
    (s.raise c info op).faultInfo = info := rfl
@[simp] theorem State.raise_faultPc (c : FatalCondition) (info : BitVec 17) (op : Word) :
    (s.raise c info op).faultPc = s.pc := rfl
@[simp] theorem State.raise_faultOp (c : FatalCondition) (info : BitVec 17) (op : Word) :
    (s.raise c info op).faultOp = op := rfl
@[simp] theorem State.raise_stepResult (c : FatalCondition) (info : BitVec 17) (op : Word) :
    (s.raise c info op).stepResult = .fault c := rfl
@[simp] theorem State.raise_tone (c : FatalCondition) (info : BitVec 17) (op : Word) :
    (s.raise c info op).tone = s.tone := rfl
@[simp] theorem State.raise_randIn (c : FatalCondition) (info : BitVec 17) (op : Word) :
    (s.raise c info op).randIn = s.randIn := rfl
@[simp] theorem State.raise_randIdx (c : FatalCondition) (info : BitVec 17) (op : Word) :
    (s.raise c info op).randIdx = s.randIdx := rfl

/-! ### `beginStep` -/

@[simp] theorem State.beginStep_v (rand : Byte) : (s.beginStep rand).v = s.v := rfl
@[simp] theorem State.beginStep_i (rand : Byte) : (s.beginStep rand).i = s.i := rfl
@[simp] theorem State.beginStep_pc (rand : Byte) : (s.beginStep rand).pc = s.pc := rfl
@[simp] theorem State.beginStep_stk (rand : Byte) : (s.beginStep rand).stk = s.stk := rfl
@[simp] theorem State.beginStep_sp (rand : Byte) : (s.beginStep rand).sp = s.sp := rfl
@[simp] theorem State.beginStep_dt (rand : Byte) : (s.beginStep rand).dt = s.dt := rfl
@[simp] theorem State.beginStep_st (rand : Byte) : (s.beginStep rand).st = s.st := rfl
@[simp] theorem State.beginStep_mem (rand : Byte) : (s.beginStep rand).mem = s.mem := rfl
@[simp] theorem State.beginStep_fb (rand : Byte) : (s.beginStep rand).fb = s.fb := rfl
@[simp] theorem State.beginStep_key (rand : Byte) : (s.beginStep rand).key = s.key := rfl
@[simp] theorem State.beginStep_redraw (rand : Byte) : (s.beginStep rand).redraw = false := rfl
@[simp] theorem State.beginStep_halt (rand : Byte) : (s.beginStep rand).halt = s.halt := rfl
@[simp] theorem State.beginStep_faultInfo (rand : Byte) :
    (s.beginStep rand).faultInfo = s.faultInfo := rfl
@[simp] theorem State.beginStep_faultPc (rand : Byte) :
    (s.beginStep rand).faultPc = s.faultPc := rfl
@[simp] theorem State.beginStep_faultOp (rand : Byte) :
    (s.beginStep rand).faultOp = s.faultOp := rfl
@[simp] theorem State.beginStep_stepResult (rand : Byte) :
    (s.beginStep rand).stepResult = .ok := rfl
@[simp] theorem State.beginStep_tone (rand : Byte) : (s.beginStep rand).tone = s.tone := rfl
@[simp] theorem State.beginStep_randIn (rand : Byte) : (s.beginStep rand).randIn = rand := rfl
@[simp] theorem State.beginStep_randIdx (rand : Byte) :
    (s.beginStep rand).randIdx = s.randIdx := rfl

/-! ### `nextDraw` -/

@[simp] theorem State.nextDraw_v : s.nextDraw.v = s.v := rfl
@[simp] theorem State.nextDraw_i : s.nextDraw.i = s.i := rfl
@[simp] theorem State.nextDraw_pc : s.nextDraw.pc = s.pc := rfl
@[simp] theorem State.nextDraw_stk : s.nextDraw.stk = s.stk := rfl
@[simp] theorem State.nextDraw_sp : s.nextDraw.sp = s.sp := rfl
@[simp] theorem State.nextDraw_dt : s.nextDraw.dt = s.dt := rfl
@[simp] theorem State.nextDraw_st : s.nextDraw.st = s.st := rfl
@[simp] theorem State.nextDraw_mem : s.nextDraw.mem = s.mem := rfl
@[simp] theorem State.nextDraw_fb : s.nextDraw.fb = s.fb := rfl
@[simp] theorem State.nextDraw_key : s.nextDraw.key = s.key := rfl
@[simp] theorem State.nextDraw_redraw : s.nextDraw.redraw = s.redraw := rfl
@[simp] theorem State.nextDraw_halt : s.nextDraw.halt = s.halt := rfl
@[simp] theorem State.nextDraw_faultInfo : s.nextDraw.faultInfo = s.faultInfo := rfl
@[simp] theorem State.nextDraw_faultPc : s.nextDraw.faultPc = s.faultPc := rfl
@[simp] theorem State.nextDraw_faultOp : s.nextDraw.faultOp = s.faultOp := rfl
@[simp] theorem State.nextDraw_stepResult : s.nextDraw.stepResult = s.stepResult := rfl
@[simp] theorem State.nextDraw_tone : s.nextDraw.tone = s.tone := rfl
@[simp] theorem State.nextDraw_randIn : s.nextDraw.randIn = s.randIn := rfl
@[simp] theorem State.nextDraw_randIdx : s.nextDraw.randIdx = s.randIdx + 1 := rfl

/-! ### `unrecognised` -/

@[simp] theorem State.unrecognised_v (op : Word) : (s.unrecognised op).v = s.v := rfl
@[simp] theorem State.unrecognised_i (op : Word) : (s.unrecognised op).i = s.i := rfl
@[simp] theorem State.unrecognised_pc (op : Word) : (s.unrecognised op).pc = s.pc + 2 := rfl
@[simp] theorem State.unrecognised_stk (op : Word) : (s.unrecognised op).stk = s.stk := rfl
@[simp] theorem State.unrecognised_sp (op : Word) : (s.unrecognised op).sp = s.sp := rfl
@[simp] theorem State.unrecognised_dt (op : Word) : (s.unrecognised op).dt = s.dt := rfl
@[simp] theorem State.unrecognised_st (op : Word) : (s.unrecognised op).st = s.st := rfl
@[simp] theorem State.unrecognised_mem (op : Word) : (s.unrecognised op).mem = s.mem := rfl
@[simp] theorem State.unrecognised_fb (op : Word) : (s.unrecognised op).fb = s.fb := rfl
@[simp] theorem State.unrecognised_key (op : Word) : (s.unrecognised op).key = s.key := rfl
@[simp] theorem State.unrecognised_redraw (op : Word) : (s.unrecognised op).redraw = s.redraw := rfl
@[simp] theorem State.unrecognised_halt (op : Word) : (s.unrecognised op).halt = s.halt := rfl
@[simp] theorem State.unrecognised_faultInfo (op : Word) :
    (s.unrecognised op).faultInfo = s.faultInfo := rfl
@[simp] theorem State.unrecognised_faultPc (op : Word) :
    (s.unrecognised op).faultPc = s.faultPc := rfl
@[simp] theorem State.unrecognised_faultOp (op : Word) :
    (s.unrecognised op).faultOp = s.faultOp := rfl
@[simp] theorem State.unrecognised_stepResult (op : Word) :
    (s.unrecognised op).stepResult = .warn s.pc op := rfl
@[simp] theorem State.unrecognised_tone (op : Word) : (s.unrecognised op).tone = s.tone := rfl
@[simp] theorem State.unrecognised_randIn (op : Word) : (s.unrecognised op).randIn = s.randIn := rfl
@[simp] theorem State.unrecognised_randIdx (op : Word) :
    (s.unrecognised op).randIdx = s.randIdx := rfl

/-! ### `tick` -/

@[simp] theorem State.tick_v : s.tick.v = s.v := rfl
@[simp] theorem State.tick_i : s.tick.i = s.i := rfl
@[simp] theorem State.tick_pc : s.tick.pc = s.pc := rfl
@[simp] theorem State.tick_stk : s.tick.stk = s.stk := rfl
@[simp] theorem State.tick_sp : s.tick.sp = s.sp := rfl
@[simp] theorem State.tick_dt : s.tick.dt = countDown s.dt := rfl
@[simp] theorem State.tick_st : s.tick.st = countDown s.st := rfl
@[simp] theorem State.tick_mem : s.tick.mem = s.mem := rfl
@[simp] theorem State.tick_fb : s.tick.fb = s.fb := rfl
@[simp] theorem State.tick_key : s.tick.key = s.key := rfl
@[simp] theorem State.tick_redraw : s.tick.redraw = s.redraw := rfl
@[simp] theorem State.tick_halt : s.tick.halt = s.halt := rfl
@[simp] theorem State.tick_faultInfo : s.tick.faultInfo = s.faultInfo := rfl
@[simp] theorem State.tick_faultPc : s.tick.faultPc = s.faultPc := rfl
@[simp] theorem State.tick_faultOp : s.tick.faultOp = s.faultOp := rfl
@[simp] theorem State.tick_stepResult : s.tick.stepResult = s.stepResult.expire := rfl
@[simp] theorem State.tick_tone : s.tick.tone = decide (s.st.toNat > 0) := rfl
@[simp] theorem State.tick_randIn : s.tick.randIn = s.randIn := rfl
@[simp] theorem State.tick_randIdx : s.tick.randIdx = s.randIdx := rfl

/-! ### `setKeys` -/

@[simp] theorem State.setKeys_v (k : BitVec 16) : (s.setKeys k).v = s.v := rfl
@[simp] theorem State.setKeys_i (k : BitVec 16) : (s.setKeys k).i = s.i := rfl
@[simp] theorem State.setKeys_pc (k : BitVec 16) : (s.setKeys k).pc = s.pc := rfl
@[simp] theorem State.setKeys_stk (k : BitVec 16) : (s.setKeys k).stk = s.stk := rfl
@[simp] theorem State.setKeys_sp (k : BitVec 16) : (s.setKeys k).sp = s.sp := rfl
@[simp] theorem State.setKeys_dt (k : BitVec 16) : (s.setKeys k).dt = s.dt := rfl
@[simp] theorem State.setKeys_st (k : BitVec 16) : (s.setKeys k).st = s.st := rfl
@[simp] theorem State.setKeys_mem (k : BitVec 16) : (s.setKeys k).mem = s.mem := rfl
@[simp] theorem State.setKeys_fb (k : BitVec 16) : (s.setKeys k).fb = s.fb := rfl
@[simp] theorem State.setKeys_key (k : BitVec 16) : (s.setKeys k).key = k := rfl
@[simp] theorem State.setKeys_redraw (k : BitVec 16) : (s.setKeys k).redraw = s.redraw := rfl
@[simp] theorem State.setKeys_halt (k : BitVec 16) : (s.setKeys k).halt = s.halt := rfl
@[simp] theorem State.setKeys_faultInfo (k : BitVec 16) :
    (s.setKeys k).faultInfo = s.faultInfo := rfl
@[simp] theorem State.setKeys_faultPc (k : BitVec 16) : (s.setKeys k).faultPc = s.faultPc := rfl
@[simp] theorem State.setKeys_faultOp (k : BitVec 16) : (s.setKeys k).faultOp = s.faultOp := rfl
@[simp] theorem State.setKeys_stepResult (k : BitVec 16) :
    (s.setKeys k).stepResult = s.stepResult.expire := rfl
@[simp] theorem State.setKeys_tone (k : BitVec 16) : (s.setKeys k).tone = s.tone := rfl
@[simp] theorem State.setKeys_randIn (k : BitVec 16) : (s.setKeys k).randIn = s.randIn := rfl
@[simp] theorem State.setKeys_randIdx (k : BitVec 16) : (s.setKeys k).randIdx = s.randIdx := rfl

/-! ### Reading a register after an update -/

@[simp] theorem State.getV_setV_same (r : Reg) (b : Byte) : (s.setV r b).getV r = b := by
  simp [State.getV]

theorem State.getV_setV_ne {r q : Reg} (b : Byte) (h : q ≠ r) : (s.setV r b).getV q = s.getV q := by
  have : r.val ≠ q.val := fun e => h (Fin.ext e.symm)
  simp [State.getV, this]

theorem State.getV_setV (r q : Reg) (b : Byte) :
    (s.setV r b).getV q = if q = r then b else s.getV q := by
  by_cases h : q = r
  · simp [h]
  · simp [h, State.getV_setV_ne s b h]

@[simp] theorem State.getV_setI (q : Reg) (w : Word) : (s.setI w).getV q = s.getV q := rfl
@[simp] theorem State.getV_setPc (q : Reg) (w : Word) : (s.setPc w).getV q = s.getV q := rfl
@[simp] theorem State.getV_setDt (q : Reg) (b : Byte) : (s.setDt b).getV q = s.getV q := rfl
@[simp] theorem State.getV_setSt (q : Reg) (b : Byte) : (s.setSt b).getV q = s.getV q := rfl
@[simp] theorem State.getV_setMem (q : Reg) (m : Memory) : (s.setMem m).getV q = s.getV q := rfl
@[simp] theorem State.getV_redrawWith (q : Reg) (fb : Framebuffer) :
    (s.redrawWith fb).getV q = s.getV q := rfl
@[simp] theorem State.getV_push (q : Reg) (w : Word) : (s.push w).getV q = s.getV q := rfl
@[simp] theorem State.getV_pop (q : Reg) : s.pop.getV q = s.getV q := rfl
@[simp] theorem State.getV_raise (q : Reg) (c : FatalCondition) (info : BitVec 17) (op : Word) :
    (s.raise c info op).getV q = s.getV q := rfl
@[simp] theorem State.getV_beginStep (q : Reg) (rand : Byte) :
    (s.beginStep rand).getV q = s.getV q := rfl
@[simp] theorem State.getV_nextDraw (q : Reg) : s.nextDraw.getV q = s.getV q := rfl
@[simp] theorem State.getV_unrecognised (q : Reg) (op : Word) :
    (s.unrecognised op).getV q = s.getV q := rfl
@[simp] theorem State.getV_tick (q : Reg) : s.tick.getV q = s.getV q := rfl
@[simp] theorem State.getV_setKeys (q : Reg) (k : BitVec 16) :
    (s.setKeys k).getV q = s.getV q := rfl

theorem State.getV_loadedRegs (x q : Reg) (a : Nat) :
    (s.setRegs (s.loadedRegs x a)).getV q = if q ≤ x then s.mem.get (a + q.val) else s.getV q := by
  simp [State.getV, State.loadedRegs]

/-! ### Derived updates -/

@[simp] theorem State.advance_eq : s.advance = s.setPc (s.pc + 2) := rfl
@[simp] theorem State.skipIf_eq (c : Bool) :
    s.skipIf c = s.setPc (if c then s.pc + 4 else s.pc + 2) := rfl
@[simp] theorem State.fetchFault_eq :
    s.fetchFault = s.raise .addressOutOfRange (s.pc.setWidth 17) 0 := rfl
@[simp] theorem State.flagThenResult_eq (flag : Byte) (x : Reg) (f : State → Byte) :
    s.flagThenResult flag x f = (s.setV VF flag).setV x (f (s.setV VF flag)) := rfl

/-- `pressed` reads KEY alone. -/
theorem State.pressed_eq (k : Nat) : s.pressed k = s.key.getLsbD k := rfl

end Sys2Proof.Machine
end

