-- ==== Sys2Proof/Laws/Step.lean ====
section
/-!
SUPPORT. What a step can do, said once: the inversion of `stepWith`, every instruction answering a
next state, the range checks as inequalities, and taking a fatal condition as `FaultsWith`.
-/

namespace Sys2Proof.Machine

/-! ### The fetch does not read what the start of a step writes -/

@[simp] theorem State.fetch_beginStep (s : State) (rand : Byte) :
    (s.beginStep rand).fetch = s.fetch := rfl
@[simp] theorem State.fetch_nextDraw (s : State) : s.nextDraw.fetch = s.fetch := rfl
@[simp] theorem State.fetch_setKeys (s : State) (k : BitVec 16) : (s.setKeys k).fetch = s.fetch := rfl
@[simp] theorem State.fetch_tick (s : State) : s.tick.fetch = s.fetch := rfl

/-- The fetch succeeds exactly up to 4094 (20_memory.md R54). -/
theorem State.fetch_isSome_iff (s : State) : s.fetch.isSome = true ↔ s.pc.toNat ≤ 4094 := by
  unfold State.fetch
  split <;> simp_all only [Config.memSize, Option.isSome_some, Option.isSome_none] <;> simp <;> omega

/-! ### The step -/

theorem stepWith_halted {s : State} {c : FatalCondition} (rand : Byte) (h : s.halt = .fatal c) :
    stepWith rand s = .fault (.halted c) := by
  simp [stepWith, h]

theorem stepWith_unfetched {s : State} (rand : Byte) (h : s.halt = .running)
    (hf : s.fetch = none) : stepWith rand s = .next (s.beginStep rand).fetchFault := by
  simp [stepWith, h, hf]

theorem stepWith_decoded {s : State} {op : Word} {i : Instr} (rand : Byte) (h : s.halt = .running)
    (hf : s.fetch = some op) (hd : decode op = .ok i) :
    stepWith rand s = exec i (s.beginStep rand) := by
  simp [stepWith, h, hf, hd]

theorem stepWith_unrecognised {s : State} {op : Word} {e : DecodeError} (rand : Byte)
    (h : s.halt = .running) (hf : s.fetch = some op) (hd : decode op = .error e) :
    stepWith rand s = .next ((s.beginStep rand).unrecognised op) := by
  simp [stepWith, h, hf, hd]

/-- Everything a step that answers a next state can have done. -/
theorem stepWith_cases {s t : State} {rand : Byte} (h : stepWith rand s = .next t) :
    s.halt = .running ∧
      ((s.fetch = none ∧ t = (s.beginStep rand).fetchFault) ∨
        ∃ op, s.fetch = some op ∧
          ((∃ i, decode op = .ok i ∧ exec i (s.beginStep rand) = .next t) ∨
            ∃ e, decode op = .error e ∧ t = (s.beginStep rand).unrecognised op)) := by
  cases hh : s.halt with
  | fatal c => simp [stepWith_halted rand hh] at h
  | running =>
    refine ⟨rfl, ?_⟩
    cases hf : s.fetch with
    | none =>
      rw [stepWith_unfetched rand hh hf] at h
      exact Or.inl ⟨rfl, (Host.Outcome.next.inj h).symm⟩
    | some op =>
      refine Or.inr ⟨op, rfl, ?_⟩
      cases hd : decode op with
      | ok i => exact Or.inl ⟨i, rfl, by rw [← stepWith_decoded rand hh hf hd, h]⟩
      | error e =>
        rw [stepWith_unrecognised rand hh hf hd] at h
        exact Or.inr ⟨e, rfl, (Host.Outcome.next.inj h).symm⟩

/-- No instruction ends in a fault or a refusal of the model. -/
theorem exec_next (i : Instr) (s : State) : ∃ t, exec i s = .next t := by
  cases i with
  | ret => simp only [exec, execRet]; split <;> exact ⟨_, rfl⟩
  | call nnn => simp only [exec, execCall]; split <;> exact ⟨_, rfl⟩
  | drw x y n => simp only [exec, execDrw]; split <;> exact ⟨_, rfl⟩
  | waitk x => simp only [exec, execWaitk]; split <;> exact ⟨_, rfl⟩
  | bcd x => simp only [exec, execBcd]; split <;> exact ⟨_, rfl⟩
  | stm x => simp only [exec, execStm]; split <;> exact ⟨_, rfl⟩
  | ldm x => simp only [exec, execLdm]; split <;> exact ⟨_, rfl⟩
  | _ => exact ⟨_, rfl⟩

/-! ### Range checks and taking a fatal condition -/

theorem lowestOffending_toNat {a : Nat} (h : a < 65536) :
    (lowestOffending a).toNat = max a 4096 := by
  simp only [lowestOffending, BitVec.toNat_ofNat, Config.memSize]
  omega

/-- The check of `STM Vx` and `LDM Vx`. -/
theorem spanFits_range_iff (s : State) (x : Reg) :
    spanFits s.baseAddr (x.val + 1) = true ↔ s.i.toNat + x.val < 4096 := by
  rw [spanFits_iff]
  simp only [State.baseAddr, Config.memSize]
  omega

/-- The check of `BCD Vx`. -/
theorem spanFits_digits_iff (s : State) :
    spanFits s.baseAddr 3 = true ↔ s.i.toNat + 2 < 4096 := by
  rw [spanFits_iff]
  simp only [State.baseAddr, Config.memSize]
  omega

/-- The check of `DRW Vx, Vy, n`. -/
theorem spanFits_rows_iff (s : State) (n : Imm4) :
    spanFits s.baseAddr n.toNat = true ↔ n.toNat = 0 ∨ s.i.toNat + n.toNat - 1 < 4096 := by
  rw [spanFits_iff]
  simp only [State.baseAddr, Config.memSize]
  omega

/-- An instruction whose meaning is `raise` takes the fatal condition as R178 says. -/
theorem faultsWith_of_raise {s : State} {i : Instr} {c : FatalCondition} {info : BitVec 17} {k : Nat}
    (h : exec i s = .next (s.raise c info (encode i))) (hk : info.toNat = k) :
    FaultsWith c k i s := by
  refine ⟨_, h, fun p hp => ?_, rfl, hk, rfl, rfl, rfl⟩
  cases p <;> simp_all [SamePart]

/-- Everything an instruction can do to the latch, the step's result and REDRAW: it keeps the first
two and sets REDRAW exactly when it draws, or it takes the fatal condition that it raises. -/
theorem exec_cases {i : Instr} {s t : State} (h : exec i s = .next t) :
    (t.halt = s.halt ∧ t.faultInfo = s.faultInfo ∧ t.faultPc = s.faultPc ∧
      t.faultOp = s.faultOp ∧ t.stepResult = s.stepResult ∧
      ((i = .cls ∨ ∃ x y n, i = .drw x y n) → t.redraw = true) ∧
      (¬ (i = .cls ∨ ∃ x y n, i = .drw x y n) → t.redraw = s.redraw)) ∨
    ∃ c info, t = s.raise c info (encode i) ∧ Raises i s = some (c, info.toNat) := by
  cases i <;> 
    simp only [exec, execCls, execRet, execSys, execJp, execCall, execSek, execSnek, execSe, execSne,
      execLdk, execAddk, execMov, execOr, execAnd, execXor, execAdd, execSub, execShr, execSubn,
      execShl, execLdi, execJpv0, execRnd, execDrw, execSkp, execSknp, execGetdt, execWaitk,
      execSetdt, execSetst, execAddi, execFont, execBcd, execStm, execLdm, State.keySkip] at h
  case ret =>
    split at h <;> cases h
    · right; refine ⟨_, _, rfl, ?_⟩; simp [Raises, *]; omega
    · left; simp
  case call =>
    split at h <;> cases h
    · right; refine ⟨_, _, rfl, ?_⟩; simp [Raises, *]; omega
    · left; simp
  case waitk =>
    split at h <;> cases h <;> left <;> simp
  case drw x y n =>
    split at h <;> cases h
    · left; simp
    · rename_i hf; right; refine ⟨_, _, rfl, ?_⟩
      rw [spanFits_rows_iff] at hf
      simp only [Raises]
      rw [if_pos (by omega), State.baseAddr, lowestOffending_toNat s.i.isLt]
  case bcd x =>
    split at h <;> cases h
    · left; simp
    · rename_i hf; right; refine ⟨_, _, rfl, ?_⟩
      rw [spanFits_digits_iff] at hf
      simp only [Raises]
      rw [if_pos (by omega), State.baseAddr, lowestOffending_toNat s.i.isLt]
  case stm x =>
    split at h <;> cases h
    · left; simp
    · rename_i hf; right; refine ⟨_, _, rfl, ?_⟩
      rw [spanFits_range_iff] at hf
      simp only [Raises]
      rw [if_pos (by omega), State.baseAddr, lowestOffending_toNat s.i.isLt]
  case ldm x =>
    split at h <;> cases h
    · left; simp
    · rename_i hf; right; refine ⟨_, _, rfl, ?_⟩
      rw [spanFits_range_iff] at hf
      simp only [Raises]
      rw [if_pos (by omega), State.baseAddr, lowestOffending_toNat s.i.isLt]
  case skp x =>
    cases h
    by_cases hk : (s.getV x).toNat < 16
    · rw [if_pos hk]; left; simp [State.skipIf]
    · rw [if_neg hk]; right; refine ⟨_, _, rfl, ?_⟩
      have := (s.getV x).isLt
      simp only [Raises]
      rw [if_pos (by omega)]; simp; omega
  case sknp x =>
    cases h
    by_cases hk : (s.getV x).toNat < 16
    · rw [if_pos hk]; left; simp [State.skipIf]
    · rw [if_neg hk]; right; refine ⟨_, _, rfl, ?_⟩
      have := (s.getV x).isLt
      simp only [Raises]
      rw [if_pos (by omega)]; simp; omega
  all_goals (cases h; left; simp [State.skipIf])

/-! ### A failed `Reset` (70_reset_and_hazards.md R201) -/

theorem State.loadFailed_mem (s : State) (program : List Byte) :
    (s.loadFailed program).mem = (Config.unspecifiedState program s).mem.normalize := by
  simp only [State.loadFailed]

/-! ### The chosen key (45_keys_timers.md R163) -/

theorem lowestKey_pressed {keys : BitVec 16} (h : keys ≠ 0) :
    keys.getLsbD (lowestKey keys).val = true := by
  unfold lowestKey
  cases hf : (List.finRange 16).find? (fun k => keys.getLsbD k.val) with
  | some k => simpa using List.find?_some hf
  | none =>
    refine absurd (BitVec.eq_of_getLsbD_eq fun j hj => ?_) h
    have := List.find?_eq_none.1 hf ⟨j, hj⟩ (List.mem_finRange _)
    simpa using this

/-- `KEY_SELECT` names a pressed key. -/
theorem keySelect_pressed {keys : BitVec 16} (h : keys ≠ 0) :
    keys.getLsbD (keySelect keys).val = true := by
  unfold keySelect
  split
  · assumption
  · exact lowestKey_pressed h

end Sys2Proof.Machine
end

