-- ==== Sys2Proof/Laws/Events.lean ====
section
/-!
SUPPORT. What an event can do, said once: the response to each event where it is accepted and where it
is refused, the inversion of `respond`, and `respondAll` one event at a time.
-/

namespace Sys2Proof.Machine

/-! ### `Step` as an event (60_exceptions.md R189) -/

theorem State.afterStep_of_next {s t : State} {rand : Byte} (h : stepWith rand s = .next t) :
    s.afterStep rand = t := by
  simp only [State.afterStep, h]

theorem State.afterStep_halted {s : State} {c : FatalCondition} (rand : Byte)
    (h : s.halt = .fatal c) : s.afterStep rand = { s with stepResult := .fault c } := by
  simp only [State.afterStep, stepWith_halted rand h]

theorem State.not_resetFailed_of_running {s : State} (h : s.Running) : ¬ s.ResetFailed := by
  simp [State.ResetFailed, h]

/-! ### The response to one event -/

theorem respond_reset (font : Vector Byte 80) (program : List Byte) (s : State) :
    respond (.reset font program) s = .next (s.load font program) := rfl

theorem respond_step {s : State} (rand : Byte) (h : ¬ s.ResetFailed) :
    respond (.step rand) s = .next (s.afterStep rand) := if_neg h

theorem respond_tick {s : State} (h : ¬ s.ResetFailed) : respond .tick s = .next s.tick := if_neg h

theorem respond_setKeys {s : State} (k : BitVec 16) (h : ¬ s.ResetFailed) :
    respond (.setKeys k) s = .next (s.setKeys k) := if_neg h

theorem respond_step_resetFailed {s : State} (rand : Byte) (h : s.ResetFailed) :
    respond (.step rand) s = .fault (.halted .programTooLarge) :=
  (if_pos h).trans (stepWith_halted rand h)

theorem respond_tick_resetFailed {s : State} (h : s.ResetFailed) :
    respond .tick s = .fault .onlyResetFollows := if_pos h

theorem respond_setKeys_resetFailed {s : State} (k : BitVec 16) (h : s.ResetFailed) :
    respond (.setKeys k) s = .fault .onlyResetFollows := if_pos h

/-- Everything an event that is answered can have done. -/
theorem respond_cases {e : Event} {s t : State} (h : respond e s = .next t) :
    (∃ font program, e = .reset font program ∧ t = s.load font program) ∨
    (¬ s.ResetFailed ∧
      ((∃ rand, e = .step rand ∧ t = s.afterStep rand) ∨ (e = .tick ∧ t = s.tick) ∨
        ∃ k, e = .setKeys k ∧ t = s.setKeys k)) := by
  cases e with
  | reset font program => exact .inl ⟨font, program, rfl, (Host.Outcome.next.inj h).symm⟩
  | step rand =>
    by_cases hf : s.ResetFailed
    · rw [respond_step_resetFailed rand hf] at h
      cases h
    · rw [respond_step rand hf] at h
      exact .inr ⟨hf, .inl ⟨rand, rfl, (Host.Outcome.next.inj h).symm⟩⟩
  | tick =>
    by_cases hf : s.ResetFailed
    · rw [respond_tick_resetFailed hf] at h
      cases h
    · rw [respond_tick hf] at h
      exact .inr ⟨hf, .inr (.inl ⟨rfl, (Host.Outcome.next.inj h).symm⟩)⟩
  | setKeys k =>
    by_cases hf : s.ResetFailed
    · rw [respond_setKeys_resetFailed k hf] at h
      cases h
    · rw [respond_setKeys k hf] at h
      exact .inr ⟨hf, .inr (.inr ⟨k, rfl, (Host.Outcome.next.inj h).symm⟩)⟩

/-- Outside a failed `Reset` every event is answered. -/
theorem respond_next {s : State} (e : Event) (h : ¬ s.ResetFailed) : ∃ t, respond e s = .next t := by
  cases e with
  | reset font program => exact ⟨_, rfl⟩
  | step rand => exact ⟨_, respond_step rand h⟩
  | tick => exact ⟨_, respond_tick h⟩
  | setKeys k => exact ⟨_, respond_setKeys k h⟩

/-! ### The response to several -/

theorem respondAll_cons_of_next {e : Event} {s t : State} (rest : List Event)
    (h : respond e s = .next t) : respondAll (e :: rest) s = respondAll rest t := by
  simp only [respondAll, h]

theorem respondAll_cons_next {e : Event} {rest : List Event} {s u : State}
    (h : respondAll (e :: rest) s = .next u) :
    ∃ t, respond e s = .next t ∧ respondAll rest t = .next u := by
  cases hr : respond e s with
  | next t => exact ⟨t, rfl, by rw [← h, respondAll_cons_of_next rest hr]⟩
  | fault f => simp [respondAll, hr] at h
  | refused r => simp [respondAll, hr] at h

end Sys2Proof.Machine
end

