-- ==== Sys2Proof/Laws/Framebuffer.lean ====
section
/-!
SUPPORT. What the blit does to every cell and to the collision flag (44_display.md R152): each cell
under a 1 bit of the sprite is inverted, every other cell is kept, and the flag tells whether some
inverted cell was lit.
-/

namespace Sys2Proof.Machine

theorem Framebuffer.cell_setCell (fb : Framebuffer) (px qx : Fin 64) (py qy : Fin 32) (b : Bool) :
    (fb.setCell px py b).cell qx qy = if qx = px ∧ qy = py then b else fb.cell qx qy := by
  unfold Framebuffer.cell Framebuffer.setCell
  by_cases hx : qx = px
  · subst hx
    by_cases hy : qy = py
    · subst hy; simp
    · have : py.val ≠ qy.val := fun e => hy (Fin.ext e.symm)
      simp [hy, Vector.getElem_set_ne, this]
  · have : px.val ≠ qx.val := fun e => hx (Fin.ext e.symm)
    simp [hx, Vector.getElem_set_ne, this]

@[simp] theorem Framebuffer.cell_blank (px : Fin 64) (py : Fin 32) :
    Framebuffer.blank.cell px py = false := by
  simp [Framebuffer.cell, Framebuffer.blank]

/-- Two framebuffers with the same cells are equal. -/
theorem Framebuffer.ext_cells {f g : Framebuffer}
    (h : ∀ px py, Framebuffer.cell f px py = Framebuffer.cell g px py) : f = g :=
  Vector.ext fun x hx => Vector.ext fun y hy => h ⟨x, hx⟩ ⟨y, hy⟩

theorem wrapX_inj {x0 c d : Nat} (hc : c < 8) (hd : d < 8) (h : wrapX (x0 + c) = wrapX (x0 + d)) :
    c = d := by
  have := congrArg Fin.val h
  simp [wrapX, Fin.ofNat] at this
  omega

theorem wrapY_inj {y0 r q : Nat} (hr : r < 32) (hq : q < 32)
    (h : wrapY (y0 + r) = wrapY (y0 + q)) : r = q := by
  have := congrArg Fin.val h
  simp [wrapY, Fin.ofNat] at this
  omega

theorem columns_nodup (x0 : Nat) : ((List.range 8).map fun c => wrapX (x0 + c)).Nodup := by
  refine (List.nodup_map_iff_inj_on List.nodup_range).2 fun c hc d hd h => ?_
  exact wrapX_inj (List.mem_range.1 hc) (List.mem_range.1 hd) h

/-- The pixels of one row at the distinct columns `cs`. -/
theorem blit_columns (x0 : Nat) (py : Fin 32) (row : Byte) (cs : List Nat)
    (hd : (cs.map fun c => wrapX (x0 + c)).Nodup) (p : Framebuffer × Bool) :
    (∀ qx qy, (cs.foldl (fun q c => blitPixel (wrapX (x0 + c)) py (spriteBit row c) q) p).1.cell qx qy
      = (p.1.cell qx qy ^^
          (decide (qy = py) && cs.any fun c => decide (wrapX (x0 + c) = qx) && spriteBit row c))) ∧
    (cs.foldl (fun q c => blitPixel (wrapX (x0 + c)) py (spriteBit row c) q) p).2
      = (p.2 || cs.any fun c => spriteBit row c && p.1.cell (wrapX (x0 + c)) py) := by
  induction cs generalizing p with
  | nil => simp
  | cons c rest ih =>
    simp only [List.map_cons, List.nodup_cons, List.mem_map, not_exists, not_and] at hd
    obtain ⟨ihc, ihf⟩ := ih hd.2 (blitPixel (wrapX (x0 + c)) py (spriteBit row c) p)
    constructor
    · intro qx qy
      rw [List.foldl_cons, ihc]
      simp only [blitPixel, Framebuffer.cell_setCell, List.any_cons]
      by_cases hy : qy = py
      · by_cases hx : qx = wrapX (x0 + c)
        · have hno : (rest.any fun d => decide (wrapX (x0 + d) = qx) && spriteBit row d) = false := by
            rw [List.any_eq_false]
            intro d hdm
            have := hd.1 d hdm
            simp [hx, this]
          simp [hy, hx]
          rw [← hx, hno]
          simp
        · simp [hy, hx, Ne.symm hx]
      · simp [hy]
    · rw [List.foldl_cons, ihf]
      simp only [blitPixel, List.any_cons, Framebuffer.cell_setCell, and_true]
      rw [Bool.or_assoc]
      congr 2
      rw [Bool.eq_iff_iff]
      simp only [List.any_eq_true]
      exact exists_congr fun d => and_congr_right fun hdm => by rw [if_neg (hd.1 d hdm)]

/-- The 1 bit of a sprite row that falls on column `px`. -/
def rowAt (x0 : Nat) (row : Byte) (px : Fin 64) : Bool :=
  (List.range 8).any fun c => decide (wrapX (x0 + c) = px) && spriteBit row c

/-- The sprite bit that falls on the cell `(px, py)`, false where none does. -/
def spriteAt (x0 y0 : Nat) (rows : List Byte) (px : Fin 64) (py : Fin 32) : Bool :=
  match rows with
  | [] => false
  | row :: rest => (decide (py = wrapY y0) && rowAt x0 row px) || spriteAt x0 (y0 + 1) rest px py

theorem blitRow_cell (x0 : Nat) (py : Fin 32) (row : Byte) (p : Framebuffer × Bool)
    (qx : Fin 64) (qy : Fin 32) :
    (blitRow x0 py row p).1.cell qx qy = (p.1.cell qx qy ^^ (decide (qy = py) && rowAt x0 row qx)) :=
  (blit_columns x0 py row (List.range 8) (columns_nodup x0) p).1 qx qy

theorem blitRow_flag (x0 : Nat) (py : Fin 32) (row : Byte) (p : Framebuffer × Bool) :
    (blitRow x0 py row p).2 = true ↔
      p.2 = true ∨ ∃ qx, rowAt x0 row qx = true ∧ p.1.cell qx py = true := by
  rw [blitRow, (blit_columns x0 py row (List.range 8) (columns_nodup x0) p).2]
  simp only [rowAt, Bool.or_eq_true, List.any_eq_true, Bool.and_eq_true, decide_eq_true_eq]
  refine or_congr_right ⟨?_, ?_⟩
  · rintro ⟨c, hc, hb, hl⟩
    exact ⟨_, ⟨c, hc, rfl, hb⟩, hl⟩
  · rintro ⟨qx, ⟨c, hc, rfl, hb⟩, hl⟩
    exact ⟨c, hc, hb, hl⟩

/-- Where the sprite's later rows fall, its first row does not (R152 (d)). -/
theorem spriteAt_below {x0 y0 : Nat} {rows : List Byte} (hlen : rows.length ≤ 31) (px : Fin 64) :
    spriteAt x0 (y0 + 1) rows px (wrapY y0) = false := by
  suffices h : ∀ k, 1 ≤ k → k + rows.length ≤ 32 →
      spriteAt x0 (y0 + k) rows px (wrapY y0) = false from h 1 (by omega) (by omega)
  induction rows with
  | nil => intros; rfl
  | cons row rest ih =>
    intro k hk hkl
    simp only [List.length_cons] at hlen hkl
    have hne : wrapY y0 ≠ wrapY (y0 + k) := fun e => by
      have := wrapY_inj (y0 := y0) (r := 0) (q := k) (by omega) (by omega) e
      omega
    have hrest := ih (by omega) (k + 1) (by omega) (by omega)
    rw [spriteAt, Nat.add_assoc, hrest]
    simp [hne]

theorem blitRows_cell (x0 : Nat) (rows : List Byte) (hlen : rows.length ≤ 32) (y0 : Nat)
    (p : Framebuffer × Bool) (qx : Fin 64) (qy : Fin 32) :
    (blitRows x0 y0 rows p).1.cell qx qy = (p.1.cell qx qy ^^ spriteAt x0 y0 rows qx qy) := by
  induction rows generalizing y0 p with
  | nil => simp [blitRows, spriteAt]
  | cons row rest ih =>
    simp only [List.length_cons] at hlen
    rw [blitRows, ih (by omega), blitRow_cell, spriteAt]
    by_cases hy : qy = wrapY y0
    · subst hy
      simp [spriteAt_below (by omega : rest.length ≤ 31)]
    · simp [hy]

theorem blitRows_flag (x0 : Nat) (rows : List Byte) (hlen : rows.length ≤ 32) (y0 : Nat)
    (p : Framebuffer × Bool) :
    (blitRows x0 y0 rows p).2 = true ↔
      p.2 = true ∨ ∃ qx qy, spriteAt x0 y0 rows qx qy = true ∧ p.1.cell qx qy = true := by
  induction rows generalizing y0 p with
  | nil => simp [blitRows, spriteAt]
  | cons row rest ih =>
    simp only [List.length_cons] at hlen
    rw [blitRows, ih (by omega), blitRow_flag, or_assoc]
    refine or_congr_right ?_
    simp only [spriteAt, Bool.or_eq_true, Bool.and_eq_true, decide_eq_true_eq]
    constructor
    · rintro (⟨qx, hr, hl⟩ | ⟨qx, qy, hs, hl⟩)
      · exact ⟨qx, _, Or.inl ⟨rfl, hr⟩, hl⟩
      · refine ⟨qx, qy, Or.inr hs, ?_⟩
        have hy : qy ≠ wrapY y0 := by
          rintro rfl
          rw [spriteAt_below (by omega)] at hs
          exact absurd hs (by simp)
        rwa [blitRow_cell, decide_eq_false hy, Bool.false_and, Bool.xor_false] at hl
    · rintro ⟨qx, qy, ⟨rfl, hr⟩ | hs, hl⟩
      · exact Or.inl ⟨qx, hr, hl⟩
      · refine Or.inr ⟨qx, qy, hs, ?_⟩
        have hy : qy ≠ wrapY y0 := by
          rintro rfl
          rw [spriteAt_below (by omega)] at hs
          exact absurd hs (by simp)
        rwa [blitRow_cell, decide_eq_false hy, Bool.false_and, Bool.xor_false]

/-- Every cell after a blit: XORed with the sprite bit that falls on it (R152). -/
theorem blit_cell (fb : Framebuffer) (x0 y0 : Nat) (rows : List Byte) (hlen : rows.length ≤ 32)
    (qx : Fin 64) (qy : Fin 32) :
    (blit fb x0 y0 rows).1.cell qx qy = (fb.cell qx qy ^^ spriteAt x0 y0 rows qx qy) :=
  blitRows_cell x0 rows hlen y0 (fb, false) qx qy

/-- The collision flag of a blit: some lit cell lies under a 1 bit of the sprite (R152). -/
theorem blit_flag (fb : Framebuffer) (x0 y0 : Nat) (rows : List Byte) (hlen : rows.length ≤ 32) :
    (blit fb x0 y0 rows).2 = true ↔
      ∃ qx qy, spriteAt x0 y0 rows qx qy = true ∧ fb.cell qx qy = true := by
  simp [blit, blitRows_flag x0 rows hlen y0 (fb, false)]

/-- Where the sprite bits fall, by row and column offset. -/
theorem spriteAt_iff (x0 : Nat) (rows : List Byte) (y0 : Nat) (px : Fin 64) (py : Fin 32) :
    spriteAt x0 y0 rows px py = true ↔
      ∃ r c, r < rows.length ∧ c < 8 ∧ wrapX (x0 + c) = px ∧ wrapY (y0 + r) = py ∧
        spriteBit (rows.getD r 0) c = true := by
  induction rows generalizing y0 with
  | nil => simp [spriteAt]
  | cons row rest ih =>
    simp only [spriteAt, rowAt, Bool.or_eq_true, Bool.and_eq_true, decide_eq_true_eq, ih,
      List.any_eq_true, List.mem_range]
    constructor
    · rintro (⟨rfl, c, hc, rfl, hb⟩ | ⟨r, c, hr, hc, rfl, rfl, hb⟩)
      · exact ⟨0, c, by simp, hc, rfl, rfl, by simpa using hb⟩
      · exact ⟨r + 1, c, by simpa using hr, hc, rfl, by rw [Nat.add_assoc, Nat.add_comm 1],
          by simpa using hb⟩
    · rintro ⟨r, c, hr, hc, rfl, rfl, hb⟩
      cases r with
      | zero => exact Or.inl ⟨rfl, c, hc, rfl, by simpa using hb⟩
      | succ r =>
        exact Or.inr ⟨r, c, by simpa using hr, hc, rfl, by rw [Nat.add_assoc, Nat.add_comm 1],
          by simpa using hb⟩

end Sys2Proof.Machine
end

