-- ==== Sys2Proof/Laws/PerInstr.lean ====
section
/-!
SUPPORT. Statements made per instruction. Family EncodingMatchesRow: the encoded word carries the
fixed bits of the instruction's row of spec/opcode_table.json, "(op AND mask_r) == match_r"
(30_encoding.md R75).
-/

namespace Sys2Proof.Laws.EncodingMatchesRow

/-- The row's `mask` and `match` (opcode_table.json). -/
def row (i : Instr) : Word × Word :=
  match i with
  | .cls => (0xFFFF, 0x00E0)
  | .ret => (0xFFFF, 0x00EE)
  | .sys _ => (0xF000, 0x0000)
  | .jp _ => (0xF000, 0x1000)
  | .call _ => (0xF000, 0x2000)
  | .sek _ _ => (0xF000, 0x3000)
  | .snek _ _ => (0xF000, 0x4000)
  | .se _ _ => (0xF00F, 0x5000)
  | .ldk _ _ => (0xF000, 0x6000)
  | .addk _ _ => (0xF000, 0x7000)
  | .mov _ _ => (0xF00F, 0x8000)
  | .or _ _ => (0xF00F, 0x8001)
  | .and _ _ => (0xF00F, 0x8002)
  | .xor _ _ => (0xF00F, 0x8003)
  | .add _ _ => (0xF00F, 0x8004)
  | .sub _ _ => (0xF00F, 0x8005)
  | .shr _ _ => (0xF00F, 0x8006)
  | .subn _ _ => (0xF00F, 0x8007)
  | .shl _ _ => (0xF00F, 0x800E)
  | .sne _ _ => (0xF00F, 0x9000)
  | .ldi _ => (0xF000, 0xA000)
  | .jpv0 _ => (0xF000, 0xB000)
  | .rnd _ _ => (0xF000, 0xC000)
  | .drw _ _ _ => (0xF000, 0xD000)
  | .skp _ => (0xF0FF, 0xE09E)
  | .sknp _ => (0xF0FF, 0xE0A1)
  | .getdt _ => (0xF0FF, 0xF007)
  | .waitk _ => (0xF0FF, 0xF00A)
  | .setdt _ => (0xF0FF, 0xF015)
  | .setst _ => (0xF0FF, 0xF018)
  | .addi _ => (0xF0FF, 0xF01E)
  | .font _ => (0xF0FF, 0xF029)
  | .bcd _ => (0xF0FF, 0xF033)
  | .stm _ => (0xF0FF, 0xF055)
  | .ldm _ => (0xF0FF, 0xF065)

/-- The word of `i` carries the fixed bits of its row. -/
def Statement (i : Instr) : Prop := encode i &&& (row i).1 = (row i).2

theorem cls : Statement .cls :=
  rfl

theorem ret : Statement .ret :=
  rfl

theorem sys (nnn : Imm12) : Statement (.sys nnn) :=
  (packNNN_and_mask _ _).trans rfl

theorem jp (nnn : Imm12) : Statement (.jp nnn) :=
  (packNNN_and_mask _ _).trans rfl

theorem call (nnn : Imm12) : Statement (.call nnn) :=
  (packNNN_and_mask _ _).trans rfl

theorem sek (x : Reg) (nn : Imm8) : Statement (.sek x nn) :=
  (packXNN_and_mask _ _ _).trans rfl

theorem snek (x : Reg) (nn : Imm8) : Statement (.snek x nn) :=
  (packXNN_and_mask _ _ _).trans rfl

theorem se (x y : Reg) : Statement (.se x y) :=
  (packXYN_and_minor _ _ _ _).trans rfl

theorem ldk (x : Reg) (nn : Imm8) : Statement (.ldk x nn) :=
  (packXNN_and_mask _ _ _).trans rfl

theorem addk (x : Reg) (nn : Imm8) : Statement (.addk x nn) :=
  (packXNN_and_mask _ _ _).trans rfl

theorem mov (x y : Reg) : Statement (.mov x y) :=
  (packXYN_and_minor _ _ _ _).trans rfl

theorem or (x y : Reg) : Statement (.or x y) :=
  (packXYN_and_minor _ _ _ _).trans rfl

theorem and (x y : Reg) : Statement (.and x y) :=
  (packXYN_and_minor _ _ _ _).trans rfl

theorem xor (x y : Reg) : Statement (.xor x y) :=
  (packXYN_and_minor _ _ _ _).trans rfl

theorem add (x y : Reg) : Statement (.add x y) :=
  (packXYN_and_minor _ _ _ _).trans rfl

theorem sub (x y : Reg) : Statement (.sub x y) :=
  (packXYN_and_minor _ _ _ _).trans rfl

theorem shr (x y : Reg) : Statement (.shr x y) :=
  (packXYN_and_minor _ _ _ _).trans rfl

theorem subn (x y : Reg) : Statement (.subn x y) :=
  (packXYN_and_minor _ _ _ _).trans rfl

theorem shl (x y : Reg) : Statement (.shl x y) :=
  (packXYN_and_minor _ _ _ _).trans rfl

theorem sne (x y : Reg) : Statement (.sne x y) :=
  (packXYN_and_minor _ _ _ _).trans rfl

theorem ldi (nnn : Imm12) : Statement (.ldi nnn) :=
  (packNNN_and_mask _ _).trans rfl

theorem jpv0 (nnn : Imm12) : Statement (.jpv0 nnn) :=
  (packNNN_and_mask _ _).trans rfl

theorem rnd (x : Reg) (nn : Imm8) : Statement (.rnd x nn) :=
  (packXNN_and_mask _ _ _).trans rfl

theorem drw (x y : Reg) (n : Imm4) : Statement (.drw x y n) :=
  (packXYN_and_mask _ _ _ _).trans rfl

theorem skp (x : Reg) : Statement (.skp x) :=
  (packXNN_and_minor _ _ _).trans rfl

theorem sknp (x : Reg) : Statement (.sknp x) :=
  (packXNN_and_minor _ _ _).trans rfl

theorem getdt (x : Reg) : Statement (.getdt x) :=
  (packXNN_and_minor _ _ _).trans rfl

theorem waitk (x : Reg) : Statement (.waitk x) :=
  (packXNN_and_minor _ _ _).trans rfl

theorem setdt (x : Reg) : Statement (.setdt x) :=
  (packXNN_and_minor _ _ _).trans rfl

theorem setst (x : Reg) : Statement (.setst x) :=
  (packXNN_and_minor _ _ _).trans rfl

theorem addi (x : Reg) : Statement (.addi x) :=
  (packXNN_and_minor _ _ _).trans rfl

theorem font (x : Reg) : Statement (.font x) :=
  (packXNN_and_minor _ _ _).trans rfl

theorem bcd (x : Reg) : Statement (.bcd x) :=
  (packXNN_and_minor _ _ _).trans rfl

theorem stm (x : Reg) : Statement (.stm x) :=
  (packXNN_and_minor _ _ _).trans rfl

theorem ldm (x : Reg) : Statement (.ldm x) :=
  (packXNN_and_minor _ _ _).trans rfl

end Sys2Proof.Laws.EncodingMatchesRow
end

