-- ==== Sys2Proof/Machine/Assembly.lean ====
section
/-!
DEFINITION. The assembly notation of 30_encoding.md R81 (decision D17; log 25): a mnemonic and the
operands in their order. It has no effect on the machine.
-/

namespace Sys2Proof.Machine

/-- An operand of an assembly line (R81). -/
inductive AsmOperand where
  /-- A register `Vx`. -/
  | reg (x : Reg)
  /-- An immediate. -/
  | num (k : Nat)
deriving DecidableEq, Repr

/-- The assembly line of an instruction (R81). `SHR` and `SHL` are written with one operand when `y`
is 0 and with two otherwise. -/
def asmLine (i : Instr) : String × List AsmOperand :=
  match i with
  | .cls => ("CLS", [])
  | .ret => ("RET", [])
  | .sys nnn => ("SYS", [.num nnn.toNat])
  | .jp nnn => ("JP", [.num nnn.toNat])
  | .call nnn => ("CALL", [.num nnn.toNat])
  | .sek x nn => ("SEK", [.reg x, .num nn.toNat])
  | .snek x nn => ("SNEK", [.reg x, .num nn.toNat])
  | .se x y => ("SE", [.reg x, .reg y])
  | .ldk x nn => ("LDK", [.reg x, .num nn.toNat])
  | .addk x nn => ("ADDK", [.reg x, .num nn.toNat])
  | .mov x y => ("MOV", [.reg x, .reg y])
  | .or x y => ("OR", [.reg x, .reg y])
  | .and x y => ("AND", [.reg x, .reg y])
  | .xor x y => ("XOR", [.reg x, .reg y])
  | .add x y => ("ADD", [.reg x, .reg y])
  | .sub x y => ("SUB", [.reg x, .reg y])
  | .shr x y => ("SHR", if y = 0 then [.reg x] else [.reg x, .reg y])
  | .subn x y => ("SUBN", [.reg x, .reg y])
  | .shl x y => ("SHL", if y = 0 then [.reg x] else [.reg x, .reg y])
  | .sne x y => ("SNE", [.reg x, .reg y])
  | .ldi nnn => ("LDI", [.num nnn.toNat])
  | .jpv0 nnn => ("JPV0", [.num nnn.toNat])
  | .rnd x nn => ("RND", [.reg x, .num nn.toNat])
  | .drw x y n => ("DRW", [.reg x, .reg y, .num n.toNat])
  | .skp x => ("SKP", [.reg x])
  | .sknp x => ("SKNP", [.reg x])
  | .getdt x => ("GETDT", [.reg x])
  | .waitk x => ("WAITK", [.reg x])
  | .setdt x => ("SETDT", [.reg x])
  | .setst x => ("SETST", [.reg x])
  | .addi x => ("ADDI", [.reg x])
  | .font x => ("FONT", [.reg x])
  | .bcd x => ("BCD", [.reg x])
  | .stm x => ("STM", [.reg x])
  | .ldm x => ("LDM", [.reg x])

end Sys2Proof.Machine
end

