-- ==== Sys2Proof/Tests/Slice0.lean ====
section
/-!
SUPPORT. Tests and witnesses. Expected results are those of spec/95_test_vectors.md (the vector is
named at each test) or of the rule named; the words are written from 30_encoding.md R75. The
witnesses show that the hypotheses of the obligations can be met, at boundary values.
-/

namespace Sys2Proof.Tests

open Sys2Proof Sys2Proof.Machine

/-! ### WellFormed smoke: the one check refuses its ill-formed terms (30_encoding.md R74, R78) -/

theorem test_wf_refuses_sys_0E0 : Instr.wf (.sys 0x0E0) = false := by decide
theorem test_wf_refuses_sys_0EE : Instr.wf (.sys 0x0EE) = false := by decide
theorem test_wf_accepts_sys_0E1 : Instr.wf (.sys 0x0E1) = true := by decide

/-! ### Decoding: one word of every row of 30_encoding.md R75, through the byte decoder -/

theorem test_decode_cls : decodeTableWord 16 0x00E0 = some (.cls) := by decide
theorem test_decode_ret : decodeTableWord 16 0x00EE = some (.ret) := by decide
theorem test_decode_sys : decodeTableWord 16 0x0123 = some (.sys 0x123) := by decide
theorem test_decode_jp : decodeTableWord 16 0x1208 = some (.jp 0x208) := by decide
theorem test_decode_call : decodeTableWord 16 0x2BCD = some (.call 0xBCD) := by decide
theorem test_decode_sek : decodeTableWord 16 0x35A6 = some (.sek 5 0xA6) := by decide
theorem test_decode_snek : decodeTableWord 16 0x45A6 = some (.snek 5 0xA6) := by decide
theorem test_decode_se : decodeTableWord 16 0x5340 = some (.se 3 4) := by decide
theorem test_decode_ldk : decodeTableWord 16 0x63C5 = some (.ldk 3 0xC5) := by decide
theorem test_decode_addk : decodeTableWord 16 0x7220 = some (.addk 2 0x20) := by decide
theorem test_decode_mov : decodeTableWord 16 0x8EF0 = some (.mov 14 15) := by decide
theorem test_decode_or : decodeTableWord 16 0x8121 = some (.or 1 2) := by decide
theorem test_decode_and : decodeTableWord 16 0x8122 = some (.and 1 2) := by decide
theorem test_decode_xor : decodeTableWord 16 0x8123 = some (.xor 1 2) := by decide
theorem test_decode_add : decodeTableWord 16 0x8124 = some (.add 1 2) := by decide
theorem test_decode_sub : decodeTableWord 16 0x8125 = some (.sub 1 2) := by decide
theorem test_decode_shr : decodeTableWord 16 0x8376 = some (.shr 3 7) := by decide
theorem test_decode_subn : decodeTableWord 16 0x8127 = some (.subn 1 2) := by decide
theorem test_decode_shl : decodeTableWord 16 0x837E = some (.shl 3 7) := by decide
theorem test_decode_sne : decodeTableWord 16 0x9340 = some (.sne 3 4) := by decide
theorem test_decode_ldi : decodeTableWord 16 0xA123 = some (.ldi 0x123) := by decide
theorem test_decode_jpv0 : decodeTableWord 16 0xBFFF = some (.jpv0 0xFFF) := by decide
theorem test_decode_rnd : decodeTableWord 16 0xC20F = some (.rnd 2 0x0F) := by decide
theorem test_decode_drw : decodeTableWord 16 0xD12F = some (.drw 1 2 15) := by decide
theorem test_decode_skp : decodeTableWord 16 0xE49E = some (.skp 4) := by decide
theorem test_decode_sknp : decodeTableWord 16 0xE4A1 = some (.sknp 4) := by decide
theorem test_decode_getdt : decodeTableWord 16 0xF507 = some (.getdt 5) := by decide
theorem test_decode_waitk : decodeTableWord 16 0xF30A = some (.waitk 3) := by decide
theorem test_decode_setdt : decodeTableWord 16 0xF515 = some (.setdt 5) := by decide
theorem test_decode_setst : decodeTableWord 16 0xF618 = some (.setst 6) := by decide
theorem test_decode_addi : decodeTableWord 16 0xF11E = some (.addi 1) := by decide
theorem test_decode_font : decodeTableWord 16 0xF329 = some (.font 3) := by decide
theorem test_decode_bcd : decodeTableWord 16 0xF233 = some (.bcd 2) := by decide
theorem test_decode_stm : decodeTableWord 16 0xFF55 = some (.stm 15) := by decide
theorem test_decode_ldm : decodeTableWord 16 0xF465 = some (.ldm 4) := by decide

/-- T100 to T105: unrecognised words (30_encoding.md R77). -/
theorem test_decode_unrecognised : [0x5AB1, 0x8128, 0x9AB5, 0xE19F, 0xF000, 0xFFFF].map
    (decodeTableWord 16) = [none, none, none, none, none, none] := by decide
theorem test_decode_truncated : decodeBytes [0xE0] = .error .truncated := by decide
/-- 30_encoding.md R81: `SHR` with y = 0 has one operand. -/
theorem test_asm_shr : asmLine (.shr 3 0) = ("SHR", [.reg 3]) := by decide

/-! ### One step on a small state -/

/-- One step of `s` with the word `w` placed at PC and the byte 0xB7 at `rand_in`. -/
def run (s : State) (w : Nat) : Option State :=
  match stepWith 0xB7 (s.withFetchWord 16 w) with
  | .next t => some t
  | .fault _ => none
  | .refused _ => none

/-- The state after reset with some registers set. -/
def regs (l : List (Reg × Byte)) : State := l.foldl (fun s p => s.setV p.1 p.2) State.reset

/-- Bytes put into memory. -/
def poke (s : State) (a : Nat) (bytes : List Byte) : State := s.setMem (s.mem.setSpan a bytes)

/-- HALT, FAULT_INFO, FAULT_PC, FAULT_OP, PC. -/
def record (s : State) : List Nat :=
  [s.halt.code.toNat, s.faultInfo.toNat, s.faultPc.toNat, s.faultOp.toNat, s.pc.toNat]

/-- A register as a number. -/
def rv (s : State) (r : Reg) : Nat := (s.getV r).toNat

/-- Bytes of memory as numbers. -/
def peek (s : State) (a n : Nat) : List Nat := (s.mem.getSpan a n).map BitVec.toNat

/-- The cells of some positions as 0 and 1. -/
def cells (s : State) (l : List (Fin 64 × Fin 32)) : List Nat :=
  l.map fun p => (Framebuffer.cell s.fb p.1 p.2).toNat

/-- T1. -/
theorem test_ret :
    (run { State.reset with pc := 0x20E, sp := 2, stk := State.reset.stk.set 2 0x206 }
      0x00EE).map (fun t =>
        [t.pc.toNat, t.sp.toNat, t.stk[2].toNat]) =
      some [0x206, 1, 0x206] := by decide
/-- T2. -/
theorem test_ret_underflow :
    (run State.reset 0x00EE).map (fun t => record t) =
      some [4, 512, 0x200, 0x00EE, 0x200] := by decide
/-- T3. -/
theorem test_sys : (run State.reset 0x0123).map (fun t => [t.pc.toNat]) = some [0x202] := by decide
/-- T4. -/
theorem test_jp :
    (run { State.reset with pc := 0x204 } 0x1208).map (fun t => [t.pc.toNat]) =
      some [0x208] := by decide
/-- T7. -/
theorem test_call :
    (run { State.reset with sp := 14 }
      0x2300).map (fun t =>
        [t.sp.toNat, t.stk[15].toNat, t.pc.toNat]) =
      some [15, 0x202, 0x300] := by decide
/-- T6. -/
theorem test_call_overflow :
    (run { State.reset with sp := 15 } 0x2300).map (fun t => record t ++ [t.sp.toNat]) =
      some [3, 512, 0x200, 0x2300, 0x200, 15] := by decide
/-- T8. -/
theorem test_jpv0 :
    (run (regs [(0, 0xFF)]) 0xBFFF).map (fun t => [t.pc.toNat]) =
      some [4350] := by decide
/-- T17. -/
theorem test_sek_skips :
    (run (regs [(15, 1)]) 0x3F01).map (fun t => [t.pc.toNat]) =
      some [0x204] := by decide
/-- T16. -/
theorem test_sek_goes_on :
    (run (regs [(1, 9)]) 0x3100).map (fun t => [t.pc.toNat]) =
      some [0x202] := by decide
/-- T18. -/
theorem test_snek_skips :
    (run (regs [(2, 5)]) 0x4206).map (fun t => [t.pc.toNat]) =
      some [0x204] := by decide
/-- T19. -/
theorem test_snek_goes_on :
    (run (regs [(2, 5)]) 0x4205).map (fun t => [t.pc.toNat]) =
      some [0x202] := by decide
/-- T20. -/
theorem test_se_skips :
    (run (regs [(3, 7), (4, 7)]) 0x5340).map (fun t => [t.pc.toNat]) =
      some [0x204] := by decide
/-- T21. -/
theorem test_se_goes_on :
    (run (regs [(3, 7), (4, 8)]) 0x5340).map (fun t => [t.pc.toNat]) =
      some [0x202] := by decide
/-- T23. -/
theorem test_sne_skips :
    (run (regs [(3, 7), (4, 8)]) 0x9340).map (fun t => [t.pc.toNat]) =
      some [0x204] := by decide
/-- T24. -/
theorem test_sne_goes_on :
    (run (regs [(3, 7), (4, 7)]) 0x9340).map (fun t => [t.pc.toNat]) =
      some [0x202] := by decide
/-- S1. -/
theorem test_ldk :
    (run State.reset 0x63C5).map (fun t => [rv t 3, t.pc.toNat]) =
      some [0xC5, 0x202] := by decide
/-- S2. -/
theorem test_addk_keeps_vf :
    (run (regs [(2, 0xF0), (15, 0x55)]) 0x7220).map (fun t => [rv t 2, rv t 15]) =
      some [0x10, 0x55] := by decide
/-- T27. -/
theorem test_addk_vf :
    (run (regs [(15, 0xFE)]) 0x7F03).map (fun t => [rv t 15]) =
      some [1] := by decide
/-- T28. -/
theorem test_mov :
    (run (regs [(15, 1)]) 0x8EF0).map (fun t => [rv t 14, rv t 15]) =
      some [1, 1] := by decide
/-- T29. -/
theorem test_or :
    (run (regs [(1, 0xF0), (2, 0x3C), (15, 1)]) 0x8121).map (fun t => [rv t 1, rv t 2, rv t 15]) =
      some [0xFC, 0x3C, 1] := by decide
/-- T30. -/
theorem test_and :
    (run (regs [(1, 0xF0), (2, 0x3C), (15, 1)]) 0x8122).map (fun t => [rv t 1, rv t 2, rv t 15]) =
      some [0x30, 0x3C, 1] := by decide
/-- T31. -/
theorem test_xor :
    (run (regs [(1, 0xF0), (2, 0x3C), (15, 1)]) 0x8123).map (fun t => [rv t 1, rv t 2, rv t 15]) =
      some [0xCC, 0x3C, 1] := by decide
/-- S3. -/
theorem test_add :
    (run (regs [(1, 250), (2, 10)]) 0x8124).map (fun t => [rv t 1, rv t 2, rv t 15]) =
      some [4, 10, 1] := by decide
/-- T51. -/
theorem test_add_to_vf :
    (run (regs [(15, 200), (1, 100)]) 0x8F14).map (fun t => [rv t 15]) =
      some [44] := by decide
/-- S5. -/
theorem test_sub_equal :
    (run (regs [(1, 5), (2, 5), (15, 1)]) 0x8125).map (fun t => [rv t 1, rv t 15]) =
      some [0, 0] := by decide
/-- T55. -/
theorem test_sub_from_vf :
    (run (regs [(15, 3), (1, 10)]) 0x8F15).map (fun t => [rv t 15]) =
      some [246] := by decide
/-- T38. -/
theorem test_shr_ignores_y :
    (run (regs [(3, 5), (7, 0xFF)]) 0x8376).map (fun t => [rv t 3, rv t 15, rv t 7]) =
      some [2, 1, 0xFF] := by decide
/-- T58. -/
theorem test_shr_vf :
    (run (regs [(15, 0xFF)]) 0x8F06).map (fun t => [rv t 15]) =
      some [0] := by decide
/-- T41. -/
theorem test_subn_wraps :
    (run (regs [(1, 10), (2, 3)]) 0x8127).map (fun t => [rv t 1, rv t 15]) =
      some [249, 0] := by decide
/-- T61. -/
theorem test_subn_vf_operand :
    (run (regs [(1, 3), (15, 10)]) 0x81F7).map (fun t => [rv t 15, rv t 1]) =
      some [1, 254] := by decide
/-- T43. -/
theorem test_shl_ignores_y :
    (run (regs [(3, 0x81), (7, 1)]) 0x837E).map (fun t => [rv t 3, rv t 15, rv t 7]) =
      some [2, 1, 1] := by decide
/-- T62. -/
theorem test_shl_vf :
    (run (regs [(15, 0x80)]) 0x8F0E).map (fun t => [rv t 15]) =
      some [2] := by decide
/-- T48. -/
theorem test_rnd : (run State.reset 0xC20F).map (fun t => [rv t 2]) = some [7] := by decide
/-- T50. -/
theorem test_rnd_vf : (run State.reset 0xCFFF).map (fun t => [rv t 15]) = some [0xB7] := by decide
/-- T65. -/
theorem test_ldi : (run State.reset 0xA300).map (fun t => [t.i.toNat]) = some [0x300] := by decide
/-- T66. -/
theorem test_addi_no_flag :
    (run { regs [(1, 1)] with i := 0x0FFF } 0xF11E).map (fun t => [t.i.toNat, rv t 15]) =
      some [0x1000, 0] := by decide
/-- T67. -/
theorem test_addi_wraps :
    (run { regs [(1, 2)] with i := 0xFFFF } 0xF11E).map (fun t => [t.i.toNat]) =
      some [1] := by decide
/-- T68. -/
theorem test_font_whole_byte :
    (run (regs [(3, 0xFF)]) 0xF329).map (fun t => [t.i.toNat]) =
      some [1275] := by decide
/-- T70. -/
theorem test_bcd_last_position :
    (run { regs [(2, 255)] with i := 4093 } 0xF233).map (fun t => peek t 4093 3 ++ [t.i.toNat]) =
      some [2, 5, 5, 4093] := by decide
/-- T71. -/
theorem test_bcd_out_of_range :
    (run { regs [(2, 255)] with i := 4094 } 0xF233).map (fun t => record t ++ peek t 4094 2) =
      some [2, 4096, 0x200, 0xF233, 0x200, 0, 0] := by decide
/-- T77. -/
theorem test_stm_over_next_word :
    (run { regs [(0, 0x6A), (1, 0x55)] with i := 0x202 }
      0xF155).map (fun t =>
        peek t 0x202 2 ++ [t.pc.toNat]) =
      some [0x6A, 0x55, 0x202] := by decide
/-- T75. -/
theorem test_stm_out_of_range :
    (run { regs [(0, 1), (15, 16)] with i := 4081 }
      0xFF55).map (fun t =>
        record t ++ peek t 4081 2) =
      some [2, 4096, 0x200, 0xFF55, 0x200, 0, 0] := by decide
/-- T78. -/
theorem test_ldm_glyph :
    (run { regs [(5, 9)] with i := 0x32 }
      0xF465).map (fun t =>
        [rv t 0, rv t 1, rv t 4, rv t 5, t.i.toNat]) =
      some [0xF0, 0x90, 0x90, 9, 0x32] := by decide
/-- T79. -/
theorem test_ldm_out_of_range :
    (run { regs [(0, 9)] with i := 4090 } 0xF665).map (fun t => record t ++ [rv t 0]) =
      some [2, 4096, 0x200, 0xF665, 0x200, 9] := by decide
/-- S6. -/
theorem test_cls :
    (run (State.setV { State.reset with fb := Framebuffer.setCell Framebuffer.blank 3 3 true } 15 1)
      0x00E0).map (fun t =>
        cells t [(3, 3), (0, 0)] ++ [t.redraw.toNat, rv t 15, t.pc.toNat]) =
      some [0, 0, 1, 1, 0x202] := by decide
/-- T46. -/
theorem test_drw_wraps :
    (run (poke { regs [(1, 60), (2, 31)] with i := 0x300 } 0x300 [0xFF, 0x81])
      0xD122).map (fun t =>
        cells t [(59, 31), (60, 31), (3, 31), (4, 31), (60, 0), (61, 0), (3, 0), (60, 1)] ++ [rv t 15]) =
      some [0, 1, 1, 0, 1, 0, 1, 0, 0] := by decide
/-- T82. -/
theorem test_drw_collision :
    (run { State.reset with fb := Framebuffer.setCell Framebuffer.blank 2 0 true }
      0xD001).map (fun t =>
        cells t [(0, 0), (1, 0), (2, 0), (3, 0), (4, 0)] ++ [rv t 15, t.redraw.toNat]) =
      some [1, 1, 0, 1, 0, 1, 1] := by decide
/-- T88. -/
theorem test_skp :
    (run { regs [(4, 10)] with pc := 0x220, key := 0x0400 } 0xE49E).map (fun t => [t.pc.toNat]) =
      some [0x224] := by decide
/-- T92. -/
theorem test_skp_no_such_key :
    (run { regs [(4, 16)] with pc := 0x220, key := 0xFFFF } 0xE49E).map (fun t => record t) =
      some [5, 16, 0x220, 0xE49E, 0x220] := by decide
/-- T91. -/
theorem test_sknp :
    (run { regs [(4, 10)] with pc := 0x220, key := 0x0400 } 0xE4A1).map (fun t => [t.pc.toNat]) =
      some [0x222] := by decide
/-- T93. -/
theorem test_sknp_no_such_key :
    (run { regs [(4, 0x1A)] with pc := 0x220, key := 0xFFFF } 0xE4A1).map (fun t => record t) =
      some [5, 26, 0x220, 0xE4A1, 0x220] := by decide
/-- T95, first step. -/
theorem test_waitk_waits :
    (run { regs [(3, 0x77)] with pc := 0x230 } 0xF30A).map (fun t => [rv t 3, t.pc.toNat]) =
      some [0x77, 0x230] := by decide
/-- T94: the PC; the choice between keys is free (log 4). -/
theorem test_waitk_key_pressed :
    (run { State.reset with pc := 0x230, key := 0x0420 }
      0xF30A).map (fun t =>
        [t.pc.toNat, t.key.toNat]) =
      some [0x232, 0x420] := by decide
/-- T97. -/
theorem test_getdt :
    (run { State.reset with dt := 0x2C } 0xF507).map (fun t => [rv t 5, t.dt.toNat]) =
      some [0x2C, 0x2C] := by decide
/-- T96. -/
theorem test_setdt :
    (run (regs [(5, 0x3C)]) 0xF515).map (fun t => [t.dt.toNat]) =
      some [60] := by decide
/-- T98. -/
theorem test_setst :
    (run { regs [(6, 2)] with dt := 1 } 0xF618).map (fun t => [t.st.toNat, t.dt.toNat]) =
      some [2, 1] := by decide
/-- T25. -/
theorem test_unrecognised :
    (run State.reset 0x5341).map (fun t => (t.stepResult, t.pc)) =
      some (.warn 0x200 0x5341, 0x202) := by decide
/-- T10, second step: a fetch at 4095. -/
theorem test_fetch_beyond : (run { State.reset with pc := 0x0FFF } 0).map record =
    some [2, 4095, 0x0FFF, 0, 0x0FFF] := by decide
/-- T99: a halted machine reports its fault again. -/
theorem test_halted : stepWith 0 { State.reset with halt := .fatal .stackOverflow } =
    .fault (.halted .stackOverflow) := by rfl

/-! ### Events -/

/-- The next state of an answer. -/
def answer (o : Host.Outcome State Fault Refusal) : Option State :=
  match o with
  | .next t => some t
  | .fault _ => none
  | .refused _ => none

/-- A state after a failed `Reset`. -/
def failedState : State := { State.reset with halt := .fatal .programTooLarge, faultInfo := 3585 }

/-- T98, ticks 2 and 3. -/
theorem test_tick : ([{ State.reset with st := 1 }, State.reset].map fun s =>
    (answer (respond .tick s)).map fun t => [t.tone.toNat, t.st.toNat, t.dt.toNat]) =
    [some [1, 0, 0], some [0, 0, 0]] := by decide
/-- T110 and R201: after a failed `Reset` a `Step` returns Fault(1), `SetKeys` is refused. -/
theorem test_after_failed_reset :
    respond (.step 0) failedState = .fault (.halted .programTooLarge) ∧
    respond (.setKeys 1) failedState = .fault .onlyResetFollows := ⟨rfl, rfl⟩
/-- The default glyph table (20_memory.md R52). -/
def defaultGlyphs : Vector Byte 80 := Vector.ofFn fun k => Memory.background k.val

/-- T111 and T112: a loaded program, TERMINAL at once, also after a failed `Reset`. -/
theorem test_reset_program :
    (answer (respond (.reset defaultGlyphs [0x12, 0x00, 0xFF]) failedState)).map
      (fun t => (peek t 0x200 4, decide t.Terminal)) =
      some ([0x12, 0x00, 0xFF, 0], true) := by decide
/-- T109: the font and the zeros of reset memory. -/
theorem test_reset_memory : peek State.reset 0 1 ++ peek State.reset 79 2 ++ peek State.reset 4095 1 =
    [0xF0, 0x80, 0, 0] := by decide
/-- Storing what an unlisted address reads as leaves no entry (log 8). -/
theorem test_memory_canonical : Memory.set (Memory.set [] 0 1) 0 0xF0 = [] := by decide
/-- The ports after reset (10_state.md R33, R34). -/
theorem test_ports : State.reset.ports.halt = 0 ∧ State.reset.ports.stepResult = .none := by decide

/-! ### Witnesses: the hypotheses of the obligations can be met -/

/-- A state halted by a stack overflow. -/
def haltedState : State :=
  { State.reset with halt := .fatal .stackOverflow, sp := 15, faultInfo := 0x200, faultPc := 0x200 }

/-- The state after reset with PC at `w`. -/
def atPc (w : Word) : State := { State.reset with pc := w }

/-- The state after reset with I at `w`. -/
def atI (w : Word) : State := { State.reset with i := w }

/-- A state whose next word is `w`. -/
def placed (w : Nat) : State := State.reset.withFetchWord 16 w

theorem witness_DecodeOfEncode : Instr.wf (.sys 0xFFF) = true ∧ Instr.wf (.drw 15 15 15) = true := by
  decide
theorem witness_EncodeOfDecode : decode 0x00E1 = .ok (.sys 0x0E1) ∧ decode 0xFF65 = .ok (.ldm 15) := by
  decide
theorem witness_FetchIsBigEndian : (atPc 4094).pc.toNat ≤ 4094 ∧ 4095 ≤ (atPc 4095).pc.toNat := by decide
theorem witness_SpanStoreThenRead : Memory.wf [] ∧ 4095 + [(1 : Byte)].length ≤ 4096 ∧
    0 < [(1 : Byte)].length ∧ 4094 < 4095 := by decide
theorem witness_EqualContentsEqualMemories :
    Memory.wf (Memory.set (Memory.set [] 512 1) 513 2) ∧ Memory.wf [(512, 1), (513, 2)] ∧
    ∀ a, Memory.get (Memory.set (Memory.set [] 512 1) 513 2) a = Memory.get [(512, 1), (513, 2)] a :=
  ⟨by decide, by decide, fun _ => rfl⟩
theorem witness_StoredBytesAreFetchedNext : 0 + 1 ≤ (1 : Reg).val ∧
    (atI 0x202).i.toNat + (1 : Reg).val < 4096 ∧
    (State.reset.pc.toNat + 2) % 65536 = (atI 0x202).i.toNat + 0 := by decide
theorem witness_StepRunsDecodedInstruction : (placed 0x00EE).halt = .running ∧
    (placed 0x00EE).fetch = some 0x00EE ∧ decode 0x00EE = .ok .ret := by decide
theorem witness_PlacedWordIsFetched : (atPc 4094).pc.toNat ≤ 4094 := by
  decide
theorem witness_FetchBeyondMemoryFaults : State.reset.halt = .running ∧
    4095 ≤ (atPc 4095).pc.toNat := by decide
theorem witness_UnrecognisedWordWarns : (placed 0x5341).halt = .running ∧
    (placed 0x5341).fetch = some 0x5341 ∧ decode 0x5341 = .error (.unrecognised 0x5341) := by decide
theorem witness_StepStopsOnlyWhenHalted : State.reset.halt = .running ∧
    haltedState.halt = .fatal .stackOverflow := by decide
theorem witness_RedrawExactlyAfterDrawing : (placed 0x00E0).halt = .running ∧
    ∃ t, step (placed 0x00E0) = .next t := ⟨by decide, _, rfl⟩
theorem witness_FaultingStepIsPrecise : (placed 0x00EE).halt = .running ∧
    ∃ t, step (placed 0x00EE) = .next t ∧ t.halt = .fatal .stackUnderflow := ⟨by decide, _, rfl, rfl⟩
theorem witness_FatalConditionsExactly :
    Raises (.call 0x300) { State.reset with sp := 14 } = none ∧
    Raises (.call 0x300) { State.reset with sp := 15 } = some (.stackOverflow, 512) ∧
    Raises .ret { State.reset with sp := 1 } = none ∧
    Raises .ret State.reset = some (.stackUnderflow, 512) ∧
    Raises (.skp 0) (regs [(0, 15)]) = none ∧
    Raises (.sknp 0) (regs [(0, 16)]) = some (.keyOutOfRange, 16) ∧
    Raises (.drw 0 0 2) { State.reset with i := 4094 } = none ∧
    Raises (.drw 0 0 3) { State.reset with i := 4094 } = some (.addressOutOfRange, 4096) ∧
    Raises (.drw 0 0 0) { State.reset with i := 5000 } = none ∧
    Raises (.bcd 0) { State.reset with i := 4093 } = none ∧
    Raises (.bcd 0) { State.reset with i := 4660 } = some (.addressOutOfRange, 4660) ∧
    Raises (.stm 15) { State.reset with i := 4080 } = none ∧
    Raises (.ldm 15) { State.reset with i := 4081 } = some (.addressOutOfRange, 4096) := by decide
theorem witness_ProgramCounterRule : Raises (.jp 0x300) State.reset = none := by decide
theorem witness_RegistersChangeOnlyAsDestinations : ∃ t, exec (.ldk 1 5) State.reset = .next t ∧
    t.getV 1 ≠ State.reset.getV 1 := ⟨_, rfl, by decide⟩
theorem witness_MemoryWrittenOnlyByBcdAndStm :
    ∃ t, exec (.stm 0) { State.reset with i := 0 } = .next t ∧
      t.mem.get 0 ≠ State.reset.mem.get 0 := ⟨_, rfl, by decide⟩
theorem witness_CellsWrittenOnlyByClsAndDrw : ∃ t, exec (.drw 0 0 1) State.reset = .next t ∧
    Framebuffer.cell t.fb 0 0 ≠ Framebuffer.cell State.reset.fb 0 0 := ⟨_, rfl, by decide⟩
theorem witness_SpecialRegistersHaveOneWriter :
    (∃ t, exec (.ldi 1) State.reset = .next t ∧ t.i ≠ State.reset.i) ∧
    (∃ t, exec (.call 0x300) State.reset = .next t ∧ t.sp ≠ State.reset.sp ∧
      t.stk[(1 : Fin 16).val] ≠ State.reset.stk[(1 : Fin 16).val]) ∧
    (∃ t, exec (.setdt 0) (regs [(0, 1)]) = .next t ∧ t.dt ≠ (regs [(0, 1)]).dt) ∧
    ∃ t, exec (.setst 0) (regs [(0, 1)]) = .next t ∧ t.st ≠ (regs [(0, 1)]).st :=
  ⟨⟨_, rfl, by decide⟩, ⟨_, rfl, by decide, by decide⟩, ⟨_, rfl, by decide⟩, ⟨_, rfl, by decide⟩⟩
theorem witness_RetPopsOrUnderflows : (State.sp { State.reset with sp := 1 }).toNat ≠ 0 ∧
    State.reset.sp.toNat = 0 := by decide
theorem witness_CallPushesOrOverflows : State.reset.sp.toNat ≠ 15 ∧
    (State.sp { State.reset with sp := 14 }).toNat ≠ 15 ∧ haltedState.sp.toNat = 15 := by decide
theorem witness_RetUndoesCall : (State.sp { State.reset with sp := 14 }).toNat ≠ 15 := by decide
theorem witness_AddSumAndCarry : (0 : Reg) ≠ VF := by decide
theorem witness_SubtractAndNoBorrow : (0 : Reg) ≠ VF ∧ (14 : Reg) ≠ VF := by decide
theorem witness_ShiftsInPlace : (14 : Reg) ≠ VF := by decide
theorem witness_FlagRegisterAsOperand : (14 : Reg) ≠ VF := by decide
theorem witness_BcdStoresDigits : (atI 4093).i.toNat + 2 < 4096 ∧ 4096 ≤ (atI 4094).i.toNat + 2 := by decide
theorem witness_StmStoresRange : (atI 4080).i.toNat + (15 : Reg).val < 4096 ∧
    4096 ≤ (atI 4081).i.toNat + (15 : Reg).val := by decide
theorem witness_LdmLoadsRange : (atI 4095).i.toNat + (0 : Reg).val < 4096 ∧
    4096 ≤ (atI 4096).i.toNat + (0 : Reg).val := by decide
theorem witness_LdmUndoesStm : (atI 4080).i.toNat + (15 : Reg).val < 4096 := by decide
theorem witness_DrwXorsSprite : ((0 : Imm4) = 0 ∨ (atI 5000).i.toNat + (0 : Imm4).toNat - 1 < 4096) ∧
    ((2 : Imm4) = 0 ∨ (atI 4094).i.toNat + (2 : Imm4).toNat - 1 < 4096) ∧
    (3 : Imm4) ≠ 0 ∧ 4096 ≤ (atI 4094).i.toNat + (3 : Imm4).toNat - 1 := by decide
/-- The default glyph 0 lights the cell (0, 0), which may be lit or dark before. -/
theorem witness_SpriteLights : SpriteLights State.reset 0 0 1 0 0 ∧
    Framebuffer.cell State.reset.fb 0 0 = false ∧
    Framebuffer.cell (Framebuffer.setCell Framebuffer.blank 0 0 true) 0 0 = true :=
  ⟨⟨0, 0, by decide, by decide, by decide, by decide, by decide⟩, by decide, by decide⟩
theorem witness_SpriteMisses : ¬ SpriteLights State.reset 0 0 0 0 0 := by
  rintro ⟨r, _, h, _⟩
  exact absurd h (Nat.not_lt_zero r)
theorem witness_DrawingTwiceRestoresScreen : (0 : Reg) ≠ VF ∧ (14 : Reg) ≠ VF ∧
    ((5 : Imm4) = 0 ∨ State.reset.i.toNat + (5 : Imm4).toNat - 1 < 4096) := by decide
theorem witness_KeySkips : ((regs [(4, 15)]).getV 4).toNat < 16 ∧
    16 ≤ ((regs [(4, 16)]).getV 4).toNat := by decide
theorem witness_WaitForKey : (∀ k : Fin 16, State.reset.key.getLsbD k.val = false) ∧
    ∃ k : Fin 16, (State.key { State.reset with key := 0x8000 }).getLsbD k.val = true := by decide
theorem witness_TickCountsDown : ¬ State.reset.ResetFailed := by decide
theorem witness_SetKeysReplacesSnapshot : ¬ haltedState.ResetFailed := by decide
theorem witness_WarningGoneAtNextEvent : ¬ State.reset.ResetFailed ∧ (Event.tick = .tick ∨ ∃ k, Event.tick = .setKeys k) ∧
    (∃ pc op, (State.stepResult { State.reset with stepResult := .warn 0x200 0x5341 }) = .warn pc op) ∧
    ∀ pc op, State.reset.stepResult ≠ .warn pc op :=
  ⟨by decide, Or.inl rfl, ⟨_, _, rfl⟩, fun _ _ h => by cases h⟩
theorem witness_ResetLoadsProgram : (List.replicate 3584 (0xAA : Byte)).length ≤ 3584 ∧
    3584 < (List.replicate 3585 (0xAA : Byte)).length := by
  simp only [List.length_replicate]
  exact ⟨Nat.le_refl _, Nat.lt_succ_self _⟩
theorem witness_HaltLastsUntilReset : haltedState.halt ≠ .running ∧ ¬ haltedState.ResetFailed ∧
    (∀ e ∈ [Event.step 0, .tick, .setKeys 1], e.isReset = false) ∧
    ∃ t, respondAll [.step 0, .tick, .setKeys 1] haltedState = .next t :=
  ⟨by decide, by decide, by decide, _, rfl⟩
theorem witness_HaltedMachineStillAnswersHost : haltedState.halt = .fatal .stackOverflow ∧
    FatalCondition.stackOverflow ≠ .programTooLarge ∧ ([] : List Byte).length ≤ 3584 := by decide
/-- Two events of a machine that runs, and of one that is halted. -/
theorem witness_SafeRunIffRunningAtEnd : (∀ e ∈ [Event.tick, .setKeys 1], e.isReset = false) ∧
    SafeRun [.tick, .setKeys 1] State.reset ∧ ¬ SafeRun [.tick] haltedState :=
  ⟨by decide, ⟨rfl, _, rfl, rfl, _, rfl, rfl⟩, fun h => absurd h.1 (by decide)⟩
theorem witness_TerminalStateIsFixed : (placed 0x1200).Terminal := by decide
theorem witness_StepKeepsInvariant : State.reset.Inv ∧ ∃ t, step State.reset = .next t :=
  ⟨⟨by decide, Or.inr ⟨by decide, by decide, by decide, rfl, rfl, rfl⟩⟩, _, rfl⟩
/-- A halted state meets the invariants too, and so does a state after a failed `Reset`. -/
theorem witness_EventsKeepInvariant : haltedState.Inv ∧ failedState.Inv ∧
    ∃ t, respond .tick haltedState = .next t :=
  ⟨⟨by decide, Or.inr ⟨by decide, by decide, by decide, rfl, by decide, rfl, rfl⟩⟩,
    ⟨by decide, Or.inl rfl⟩, _, rfl⟩
theorem witness_OnlyResetFollowsFailedReset : failedState.ResetFailed ∧
    (∀ e ∈ [Event.tick], e.isReset = false) ∧
    respondAll [] failedState = .next failedState := ⟨rfl, by decide, rfl⟩

end Sys2Proof.Tests
end

section
/-! The scope statements (00_scope.md R12, R13): what one `Step` runs, and when it stops. -/

namespace Sys2Proof.Machine

/-- A running machine always steps, whatever is fetched: a failed fetch and an unrecognised word have
a next state of their own, and every instruction answers one. -/
theorem stepWith_next_of_running {s : State} (rand : Byte) (h : s.halt = .running) :
    ∃ t, stepWith rand s = .next t := by
  cases hf : s.fetch with
  | none => exact ⟨_, stepWith_unfetched rand h hf⟩
  | some op =>
    cases hd : decode op with
    | ok i =>
      rw [stepWith_decoded rand h hf hd]
      exact exec_next i _
    | error e => exact ⟨_, stepWith_unrecognised rand h hf hd⟩

/-- `step` is the event `Step` with the next free byte, so moving the draw counter on changes neither
the fetch nor the latch, and the state the instruction starts from is `s.nextDraw.beginStep _`. -/
theorem step_decoded {s : State} {op : Word} {i : Instr} (h : s.halt = .running)
    (hf : s.fetch = some op) (hd : decode op = .ok i) :
    step s = exec i (s.nextDraw.beginStep (Config.rand s.randIdx)) :=
  stepWith_decoded (s := s.nextDraw) _ (by simpa using h) (by simpa using hf) hd

/-- Settles O9: the two step equations, with the start of the step written out field by field. -/
theorem stepRunsDecodedInstruction : Obligations.StepRunsDecodedInstruction := by
  intro s op i hrun hfetch hdec
  constructor
  · intro rand
    exact stepWith_decoded rand hrun hfetch hdec
  · exact step_decoded hrun hfetch hdec

/-- Settles O13: `step` is `stepWith` from a state with the same latch, for both values of which
`stepWith` is known. -/
theorem stepStopsOnlyWhenHalted : Obligations.StepStopsOnlyWhenHalted := by
  intro s
  constructor
  · intro hrun
    exact stepWith_next_of_running (s := s.nextDraw) _ (by simpa using hrun)
  · intro c hhalt
    exact stepWith_halted (s := s.nextDraw) _ (by simpa using hhalt)

end Sys2Proof.Machine
end

section
/-! What one instruction does, said once: the state that it leaves where it raises nothing, and that
`exec` answers either that state or the fatal condition of `Raises` (60_exceptions.md R178). -/

namespace Sys2Proof.Machine

/-- The state that `i` leaves where it raises nothing: each arm is the rule of `exec` without its check,
as `exec_effect_or_raise` says. -/
def effect (i : Instr) (s : State) : State :=
  match i with
  | .cls => (s.redrawWith Framebuffer.blank).advance
  | .ret => (s.setPc s.top).pop
  | .sys _ => s.advance
  | .jp nnn => s.setPc (zext12 nnn)
  | .call nnn => (s.push (s.pc + 2)).setPc (zext12 nnn)
  | .sek x nn => s.skipIf (s.getV x == nn)
  | .snek x nn => s.skipIf (s.getV x != nn)
  | .se x y => s.skipIf (s.getV x == s.getV y)
  | .sne x y => s.skipIf (s.getV x != s.getV y)
  | .ldk x nn => (s.setV x nn).advance
  | .addk x nn => (s.setV x (s.getV x + nn)).advance
  | .mov x y => (s.setV x (s.getV y)).advance
  | .or x y => (s.setV x (s.getV x ||| s.getV y)).advance
  | .and x y => (s.setV x (s.getV x &&& s.getV y)).advance
  | .xor x y => (s.setV x (s.getV x ^^^ s.getV y)).advance
  | .add x y =>
      (s.flagThenResult (carryFlag (s.getV x) (s.getV y)) x fun _ => s.getV x + s.getV y).advance
  | .sub x y =>
      (s.flagThenResult (noBorrowFlag (s.getV x) (s.getV y)) x fun f => f.getV x - f.getV y).advance
  | .shr x _ => (s.flagThenResult (shiftOutLow (s.getV x)) x fun f => f.getV x >>> 1).advance
  | .subn x y =>
      (s.flagThenResult (noBorrowFlag (s.getV y) (s.getV x)) x fun f => f.getV y - f.getV x).advance
  | .shl x _ => (s.flagThenResult (shiftOutHigh (s.getV x)) x fun f => f.getV x <<< 1).advance
  | .ldi nnn => (s.setI (zext12 nnn)).advance
  | .jpv0 nnn => s.setPc (zext8 (s.getV 0) + zext12 nnn)
  | .rnd x nn => (s.setV x (s.randIn &&& nn)).advance
  | .drw x y n =>
      ((s.redrawWith (s.drawBlit x y n).1).setV VF (flagByte (s.drawBlit x y n).2)).advance
  | .skp x => s.skipIf (s.pressed (s.getV x).toNat == true)
  | .sknp x => s.skipIf (s.pressed (s.getV x).toNat == false)
  | .getdt x => (s.setV x s.dt).advance
  | .waitk x =>
      if s.key = 0 then s else (s.setV x (BitVec.ofNat 8 (keySelect s.key).val)).advance
  | .setdt x => (s.setDt (s.getV x)).advance
  | .setst x => (s.setSt (s.getV x)).advance
  | .addi x => (s.setI (s.i + zext8 (s.getV x))).advance
  | .font x => (s.setI (glyphAddr (s.getV x))).advance
  | .bcd x => (s.setMem (s.mem.setSpan s.baseAddr (bcdDigits (s.getV x)))).advance
  | .stm x => (s.setMem (s.mem.setSpan s.baseAddr (s.vRange x))).advance
  | .ldm x => (s.setRegs (s.loadedRegs x s.baseAddr)).advance

/-- `i` raises nothing in `s` and answers its effect, or it raises the condition of the table of
60_exceptions.md R170 and answers the state that R178 gives it. -/
def EffectOrRaise (i : Instr) (s : State) : Prop :=
  (Raises i s = none ∧ exec i s = .next (effect i s)) ∨
    ∃ c info, Raises i s = some (c, BitVec.toNat info) ∧
      exec i s = .next (s.raise c info (encode i))

/-- The shape of every instruction that checks a span at I: `Raises` tests `p`, `exec` tests the span,
and the two agree. -/
theorem effectOrRaise_of_spanFits {i : Instr} {s : State} {n : Nat} {p : Prop} [Decidable p]
    (hp : spanFits s.baseAddr n = true ↔ ¬ p)
    (hr : Raises i s = if p then some (.addressOutOfRange, max s.i.toNat 4096) else none)
    (he : exec i s = if spanFits s.baseAddr n then .next (effect i s)
      else .next (s.raise .addressOutOfRange (lowestOffending s.baseAddr) (encode i))) :
    EffectOrRaise i s := by
  by_cases h : p
  · refine .inr ⟨.addressOutOfRange, lowestOffending s.baseAddr, ?_, ?_⟩
    · rw [hr, if_pos h, State.baseAddr, lowestOffending_toNat s.i.isLt]
    · rw [he, if_neg (by simpa [hp] using h)]
  · exact .inl ⟨by rw [hr, if_neg h], by rw [he, if_pos (hp.2 h)]⟩

/-- The shape of the two key skips: `Raises` tests `16 <= V[x]`, `keySkip` the opposite. -/
theorem effectOrRaise_of_keySkip {i : Instr} {s : State} {k : Byte} {level : Bool}
    (hr : Raises i s = if 16 ≤ k.toNat then some (.keyOutOfRange, k.toNat) else none)
    (he : exec i s = .next (s.keySkip k level (encode i)))
    (hskip : effect i s = s.skipIf (s.pressed k.toNat == level)) : EffectOrRaise i s := by
  by_cases h : 16 ≤ k.toNat
  · refine .inr ⟨.keyOutOfRange, k.setWidth 17, ?_, ?_⟩
    · rw [hr, if_pos h, BitVec.toNat_setWidth, Nat.mod_eq_of_lt (by omega)]
    · rw [he, State.keySkip, if_neg (by omega)]
  · exact .inl ⟨by rw [hr, if_neg h], by rw [he, State.keySkip, if_pos (by omega), hskip]⟩

/-- The shape of `CALL` and `RET`: both test SP, and record PC. -/
theorem effectOrRaise_of_stackLimit {i : Instr} {s : State} {c : FatalCondition} {limit : BitVec 4}
    (hr : Raises i s = if s.sp.toNat = limit.toNat then some (c, s.pc.toNat) else none)
    (he : exec i s = if s.sp = limit then .next (s.raise c (s.pc.setWidth 17) (encode i))
      else .next (effect i s)) : EffectOrRaise i s := by
  by_cases h : s.sp = limit
  · refine .inr ⟨c, s.pc.setWidth 17, ?_, ?_⟩
    · rw [hr, if_pos (by rw [h]), BitVec.toNat_setWidth, Nat.mod_eq_of_lt (by omega)]
    · rw [he, if_pos h]
  · exact .inl ⟨by rw [hr, if_neg (h ∘ BitVec.eq_of_toNat_eq)], by rw [he, if_neg h]⟩

/-- Everything an instruction can do. -/
theorem exec_effect_or_raise (i : Instr) (s : State) : EffectOrRaise i s := by
  cases i with
  | call nnn => exact effectOrRaise_of_stackLimit (limit := 15) rfl rfl
  | ret => exact effectOrRaise_of_stackLimit (limit := 0) rfl rfl
  | skp x => exact effectOrRaise_of_keySkip (level := true) rfl rfl rfl
  | sknp x => exact effectOrRaise_of_keySkip (level := false) rfl rfl rfl
  | drw x y n =>
    exact effectOrRaise_of_spanFits ((spanFits_rows_iff s n).trans (by omega)) rfl rfl
  | bcd x => exact effectOrRaise_of_spanFits ((spanFits_digits_iff s).trans (by omega)) rfl rfl
  | stm x => exact effectOrRaise_of_spanFits ((spanFits_range_iff s x).trans (by omega)) rfl rfl
  | ldm x => exact effectOrRaise_of_spanFits ((spanFits_range_iff s x).trans (by omega)) rfl rfl
  | waitk x => exact .inl ⟨rfl, (apply_ite Host.Outcome.next (s.key = 0) s _).symm⟩
  | _ => exact .inl ⟨rfl, rfl⟩

theorem exec_of_raises_none {i : Instr} {s : State} (h : Raises i s = none) :
    exec i s = .next (effect i s) := by
  obtain ⟨-, he⟩ | ⟨c, info, hr, -⟩ := exec_effect_or_raise i s
  · exact he
  · rw [h] at hr
    cases hr

/-- The inversion of `exec`. -/
theorem exec_next_cases {i : Instr} {s t : State} (h : exec i s = .next t) :
    (Raises i s = none ∧ t = effect i s) ∨
      ∃ c info, Raises i s = some (c, BitVec.toNat info) ∧ t = s.raise c info (encode i) := by
  obtain ⟨hr, he⟩ | ⟨c, info, hr, he⟩ := exec_effect_or_raise i s
  · exact .inl ⟨hr, Host.Outcome.next.inj (h.symm.trans he)⟩
  · exact .inr ⟨c, info, hr, Host.Outcome.next.inj (h.symm.trans he)⟩

end Sys2Proof.Machine
end

section
/-! Frames over all instructions (10_state.md R20 to R29): which instructions write which part of the
state, and how each leaves PC. A fatal condition writes none of these parts. -/

namespace Sys2Proof.Machine

/-- `WAITK` with no key pressed keeps the whole state; otherwise it writes `V[x]` and PC. -/
theorem effect_waitk_cases (x : Reg) (s : State) :
    (s.key = 0 ∧ effect (.waitk x) s = s) ∨
      (s.key ≠ 0 ∧
        effect (.waitk x) s = (s.setV x (BitVec.ofNat 8 (keySelect s.key).val)).advance) := by
  by_cases h : s.key = 0
  · exact .inl ⟨h, if_pos h⟩
  · exact .inr ⟨h, if_neg h⟩

/-- `WAITK` and `LDM` keep what depends on neither the general registers nor PC. -/
theorem effect_regLoad_keeps {α : Type} {i : Instr} {s : State} (hi : ∃ x, i = .waitk x ∨ i = .ldm x)
    (part : State → α) (h : ∀ vs pc, part ((s.setRegs vs).setPc pc) = part s) :
    part (effect i s) = part s := by
  obtain ⟨x, rfl | rfl⟩ := hi
  · obtain ⟨-, he⟩ | ⟨-, he⟩ := effect_waitk_cases x s <;> rw [he]
    exact h _ _
  · exact h _ _

/-! ### The parts that few instructions write -/

theorem effect_i (i : Instr) (s : State) :
    (effect i s).i = s.i ∨ (∃ nnn, i = .ldi nnn) ∨ ∃ x, i = .addi x ∨ i = .font x := by
  cases i with
  | ldi nnn => exact .inr (.inl ⟨nnn, rfl⟩)
  | addi x => exact .inr (.inr ⟨x, .inl rfl⟩)
  | font x => exact .inr (.inr ⟨x, .inr rfl⟩)
  | waitk x | ldm x => exact .inl (effect_regLoad_keeps (by simp) State.i fun _ _ => rfl)
  | _ => exact .inl rfl

theorem effect_sp (i : Instr) (s : State) :
    (effect i s).sp = s.sp ∨ i = .ret ∨ ∃ nnn, i = .call nnn := by
  cases i with
  | ret => exact .inr (.inl rfl)
  | call nnn => exact .inr (.inr ⟨nnn, rfl⟩)
  | waitk x | ldm x => exact .inl (effect_regLoad_keeps (by simp) State.sp fun _ _ => rfl)
  | _ => exact .inl rfl

/-- Where the entry index does not wrap, a push writes no entry 0, and every other entry is kept or
becomes the pushed word. -/
theorem State.push_stk_cases {s : State} (hsp : s.sp.toNat ≠ 15) (w : Word) (k : Fin 16) :
    (s.push w).stk[k.val] = s.stk[k.val] ∨ k ≠ 0 ∧ (s.push w).stk[k.val] = w := by
  by_cases hk : (s.sp + 1).toNat = k.val
  · refine .inr ⟨fun h0 => ?_, (getElem_congr_idx hk.symm).trans (Vector.getElem_set_self _)⟩
    have hsum : (s.sp + 1).toNat = (s.sp.toNat + 1) % 16 := BitVec.toNat_add _ _
    rw [h0, hsum, Fin.val_zero] at hk
    omega
  · exact .inl (Vector.getElem_set_ne (s.sp + 1).isLt _ hk)

theorem effect_stk {i : Instr} {s : State} (h : Raises i s = none) (k : Fin 16) :
    (effect i s).stk[k.val] = s.stk[k.val] ∨
      k ≠ 0 ∧ (effect i s).stk[k.val] = s.pc + 2 ∧ ∃ nnn, i = .call nnn := by
  cases i with
  | call nnn =>
    have hsp : s.sp.toNat ≠ 15 := by simpa [Raises] using h
    obtain hkept | ⟨hk, hnew⟩ := State.push_stk_cases hsp (s.pc + 2) k
    · exact .inl hkept
    · exact .inr ⟨hk, hnew, nnn, rfl⟩
  | waitk x | ldm x => exact .inl (effect_regLoad_keeps (by simp) (·.stk[k.val]) fun _ _ => rfl)
  | _ => exact .inl rfl

theorem effect_dt (i : Instr) (s : State) : (effect i s).dt = s.dt ∨ ∃ x, i = .setdt x := by
  cases i with
  | setdt x => exact .inr ⟨x, rfl⟩
  | waitk x | ldm x => exact .inl (effect_regLoad_keeps (by simp) State.dt fun _ _ => rfl)
  | _ => exact .inl rfl

theorem effect_st (i : Instr) (s : State) : (effect i s).st = s.st ∨ ∃ x, i = .setst x := by
  cases i with
  | setst x => exact .inr ⟨x, rfl⟩
  | waitk x | ldm x => exact .inl (effect_regLoad_keeps (by simp) State.st fun _ _ => rfl)
  | _ => exact .inl rfl

theorem effect_mem (i : Instr) (s : State) :
    (effect i s).mem = s.mem ∨ ∃ x, i = .bcd x ∨ i = .stm x := by
  cases i with
  | bcd x => exact .inr ⟨x, .inl rfl⟩
  | stm x => exact .inr ⟨x, .inr rfl⟩
  | waitk x | ldm x => exact .inl (effect_regLoad_keeps (by simp) State.mem fun _ _ => rfl)
  | _ => exact .inl rfl

theorem effect_fb (i : Instr) (s : State) :
    (effect i s).fb = s.fb ∨ i = .cls ∨ ∃ x y n, i = .drw x y n := by
  cases i with
  | cls => exact .inr (.inl rfl)
  | drw x y n => exact .inr (.inr ⟨x, y, n, rfl⟩)
  | waitk x | ldm x => exact .inl (effect_regLoad_keeps (by simp) State.fb fun _ _ => rfl)
  | _ => exact .inl rfl

/-- KEY and tone are the host's: no instruction writes them. -/
theorem effect_key_tone (i : Instr) (s : State) :
    (effect i s).key = s.key ∧ (effect i s).tone = s.tone := by
  cases i with
  | waitk x | ldm x =>
    exact ⟨effect_regLoad_keeps (by simp) State.key fun _ _ => rfl,
      effect_regLoad_keeps (by simp) State.tone fun _ _ => rfl⟩
  | _ => exact ⟨rfl, rfl⟩

/-! ### The general registers -/

theorem State.getV_flagThenResult_ne {s : State} {flag : Byte} {x r : Reg} {f : State → Byte}
    (hx : r ≠ x) (hf : r ≠ VF) : (s.flagThenResult flag x f).getV r = s.getV r := by
  rw [State.flagThenResult_eq, State.getV_setV_ne _ _ hx, State.getV_setV_ne _ _ hf]

theorem effect_getV {i : Instr} {r : Reg} (s : State) (h : ¬ MayWriteV i r) :
    (effect i s).getV r = s.getV r := by
  cases i with
  | add x y | sub x y | shr x y | subn x y | shl x y =>
    obtain ⟨hx, hf⟩ := not_or.1 h
    exact (State.getV_setPc _ r _).trans (State.getV_flagThenResult_ne hx hf)
  | drw x y n => exact State.getV_setV_ne _ _ h
  | ldk x _ | addk x _ | mov x _ | or x _ | and x _ | xor x _ | rnd x _ | getdt x =>
    exact State.getV_setV_ne _ _ h
  | waitk x =>
    obtain ⟨-, he⟩ | ⟨-, he⟩ := effect_waitk_cases x s <;> rw [he]
    exact State.getV_setV_ne _ _ h
  | ldm x =>
    exact (State.getV_setPc _ r _).trans ((State.getV_loadedRegs s x r s.baseAddr).trans (if_neg h))
  | _ => rfl

/-! ### The program counter -/

theorem pcPlus_of_pc_eq_add {s t : State} {w : Word} (h : t.pc = s.pc + w) :
    PcPlus w.toNat s t := by
  rw [PcPlus, h, BitVec.toNat_add]

theorem State.skipIf_pcPlus (s : State) (cond : Bool) :
    PcPlus 2 s (s.skipIf cond) ∨ PcPlus 4 s (s.skipIf cond) := by
  cases cond with
  | false => exact .inl (pcPlus_of_pc_eq_add (w := 2) rfl)
  | true => exact .inr (pcPlus_of_pc_eq_add (w := 4) rfl)

theorem zext12_toNat (nnn : Imm12) : (zext12 nnn).toNat = nnn.toNat := by
  rw [zext12, BitVec.toNat_setWidth, Nat.mod_eq_of_lt (by omega)]

theorem zext8_toNat (b : Byte) : (zext8 b).toNat = b.toNat := by
  rw [zext8, BitVec.toNat_setWidth, Nat.mod_eq_of_lt (by omega)]

theorem effect_pcRule (i : Instr) (s : State) : PcRule i s (effect i s) := by
  cases i with
  | jp nnn | call nnn => exact zext12_toNat nnn
  | ret => rfl
  | jpv0 nnn =>
    have hsum : ((zext8 (s.getV 0)) + zext12 nnn).toNat = (s.getV 0).toNat + nnn.toNat := by
      rw [BitVec.toNat_add, zext8_toNat, zext12_toNat, Nat.mod_eq_of_lt (by omega)]
    exact hsum
  | sek | snek | se | sne | skp | sknp => exact State.skipIf_pcPlus s _
  | waitk x =>
    obtain ⟨hk, he⟩ | ⟨hk, he⟩ := effect_waitk_cases x s <;> rw [he]
    · exact (if_pos hk).mpr rfl
    · exact (if_neg hk).mpr (pcPlus_of_pc_eq_add (w := 2) rfl)
  | ldm x => exact pcPlus_of_pc_eq_add (w := 2) (congrArg (· + 2) (State.setRegs_pc s _))
  | _ => exact pcPlus_of_pc_eq_add (w := 2) rfl

/-! ### The obligations -/

/-- Settles O17: what raises nothing answers its effect. -/
theorem programCounterRule : Obligations.ProgramCounterRule := fun i s h =>
  ⟨effect i s, exec_of_raises_none h, effect_pcRule i s⟩

/-- Settles O18: the effect keeps every register outside `MayWriteV`, a fatal condition all of them. -/
theorem registersChangeOnlyAsDestinations : Obligations.RegistersChangeOnlyAsDestinations := by
  intro i s t r h hne
  by_contra hw
  obtain ⟨-, rfl⟩ | ⟨c, info, -, rfl⟩ := exec_next_cases h
  · exact hne (effect_getV s hw)
  · exact hne rfl

/-- Settles O19: outside `BCD` and `STM` the effect keeps the memory whole, and so every byte. -/
theorem memoryWrittenOnlyByBcdAndStm : Obligations.MemoryWrittenOnlyByBcdAndStm := by
  intro i s t a h hne
  obtain ⟨-, rfl⟩ | ⟨c, info, -, rfl⟩ := exec_next_cases h
  · exact (effect_mem i s).resolve_left fun he => hne (by rw [he])
  · exact absurd rfl hne

/-- Settles O20: outside `CLS` and `DRW` the effect keeps the framebuffer whole, and so every cell. -/
theorem cellsWrittenOnlyByClsAndDrw : Obligations.CellsWrittenOnlyByClsAndDrw := by
  intro i s t px py h hne
  obtain ⟨-, rfl⟩ | ⟨c, info, -, rfl⟩ := exec_next_cases h
  · exact (effect_fb i s).resolve_left fun he => hne (by rw [he])
  · exact absurd rfl hne

/-- Settles O21: one frame lemma per register; entry 0 is kept because `CALL` raises at SP = 15. -/
theorem specialRegistersHaveOneWriter : Obligations.SpecialRegistersHaveOneWriter := by
  intro i s t h
  obtain ⟨hr, rfl⟩ | ⟨c, info, -, rfl⟩ := exec_next_cases h
  · obtain ⟨hkey, htone⟩ := effect_key_tone i s
    refine ⟨(effect_i i s).resolve_left, (effect_sp i s).resolve_left, fun k hne => ?_,
      (effect_dt i s).resolve_left, (effect_st i s).resolve_left, hkey, htone⟩
    obtain ⟨hk, -, hcall⟩ := (effect_stk hr k).resolve_left hne
    exact ⟨hk, hcall⟩
  · exact ⟨absurd rfl, absurd rfl, fun _ => absurd rfl, absurd rfl, absurd rfl, rfl, rfl⟩

end Sys2Proof.Machine
end

section
/-! What a step of a running machine does to REDRAW (10_state.md R30), and what the events of a halted
machine can change (10_state.md R35 (e), 60_exceptions.md R189). -/

namespace Sys2Proof.Machine

/-- The inversion of `step`: `stepWith_cases` from `s` itself, the moved draw counter standing in the
state that the step starts from. -/
theorem step_cases {s t : State} (h : step s = .next t) :
    ∃ b, b = s.nextDraw.beginStep (Config.rand s.randIdx) ∧
      ((s.fetch = none ∧ t = b.fetchFault) ∨
        ∃ op, s.fetch = some op ∧
          ((∃ i, decode op = .ok i ∧ exec i b = .next t) ∨
            ∃ e, decode op = .error e ∧ t = b.unrecognised op)) :=
  ⟨_, rfl, (stepWith_cases h).2⟩

/-- From a running state in which REDRAW is clear: it is set exactly by a drawing instruction that does
not fault. -/
theorem exec_redraw_iff {i : Instr} {b t : State} (hrun : b.halt = .running)
    (hclear : b.redraw = false) (h : exec i b = .next t) :
    t.redraw = true ↔ t.halt = .running ∧ (i = .cls ∨ ∃ x y n, i = .drw x y n) := by
  obtain ⟨hhalt, -, -, -, -, hdraws, hkeeps⟩ | ⟨c, info, rfl, -⟩ := exec_cases h
  · rw [hhalt, hrun, eq_self, true_and]
    refine ⟨fun hset => ?_, hdraws⟩
    by_contra hno
    rw [hkeeps hno, hclear] at hset
    cases hset
  · simp [hclear]

/-- Settles O14: along the four things a step can do. -/
theorem redrawExactlyAfterDrawing : Obligations.RedrawExactlyAfterDrawing := by
  intro s t hrun h
  obtain ⟨b, rfl, ⟨hf, rfl⟩ | ⟨op, hf, ⟨i, hd, he⟩ | ⟨e, hd, rfl⟩⟩⟩ := step_cases h
  · simp
  · simpa [hf, hd] using exec_redraw_iff (by simpa using hrun) rfl he
  · simp [hf, hd]

/-! ### Halted machines -/

theorem OnlyChanges.refl (ps : List Part) (s : State) : OnlyChanges ps s s := by
  intro p _
  cases p <;> simp [SamePart]

theorem SamePart.trans {p : Part} {s t u : State} (hst : SamePart p s t) (htu : SamePart p t u) :
    SamePart p s u := by
  cases p with
  | v => exact fun r => (htu r).trans (hst r)
  | memory => exact fun a => (htu a).trans (hst a)
  | cells => exact fun px py => (htu px py).trans (hst px py)
  | stack => exact ⟨htu.1.trans hst.1, fun k => (htu.2 k).trans (hst.2 k)⟩
  | rand => exact ⟨htu.1.trans hst.1, htu.2.trans hst.2⟩
  | latch =>
    obtain ⟨hhalt, hinfo, hpc, hop⟩ := hst
    obtain ⟨hhalt', hinfo', hpc', hop'⟩ := htu
    exact ⟨hhalt'.trans hhalt, hinfo'.trans hinfo, hpc'.trans hpc, hop'.trans hop⟩
  | i | pc | dt | st | redraw | key | result | tone => exact Eq.trans htu hst

theorem OnlyChanges.trans {ps : List Part} {s t u : State} (hst : OnlyChanges ps s t)
    (htu : OnlyChanges ps t u) : OnlyChanges ps s u :=
  fun p hp => (hst p hp).trans (htu p hp)

/-- The parts that the events of a halted machine may change before a `Reset` (60_exceptions.md R189). -/
def hostParts : List Part := [.dt, .st, .key, .tone, .result]

theorem State.tick_frame (s : State) : OnlyChanges hostParts s s.tick := by
  intro p hp
  cases p <;> simp_all [SamePart, hostParts]

theorem State.setKeys_frame (s : State) (k : BitVec 16) : OnlyChanges hostParts s (s.setKeys k) := by
  intro p hp
  cases p <;> simp_all [SamePart, hostParts]

theorem State.afterStep_halted_frame {s : State} (rand : Byte) (h : s.halt ≠ .running) :
    OnlyChanges hostParts s (s.afterStep rand) := by
  cases hh : s.halt with
  | running => exact absurd hh h
  | fatal c =>
    rw [State.afterStep_halted rand hh]
    intro p hp
    cases p <;> simp_all [SamePart, hostParts, State.getV]

/-- One event of a halted machine, not a `Reset`. -/
theorem respond_halted_frame {e : Event} {s t : State} (hhalt : s.halt ≠ .running)
    (he : e.isReset = false) (h : respond e s = .next t) : OnlyChanges hostParts s t := by
  obtain ⟨font, program, rfl, -⟩ |
    ⟨-, ⟨rand, -, rfl⟩ | ⟨-, rfl⟩ | ⟨k, -, rfl⟩⟩ := respond_cases h
  · cases he
  · exact State.afterStep_halted_frame rand hhalt
  · exact State.tick_frame s
  · exact State.setKeys_frame s k

/-- The frame leaves the latch alone, so the machine stays halted as it was. -/
theorem halt_eq_of_hostParts {s t : State} (h : OnlyChanges hostParts s t) : t.halt = s.halt :=
  (h .latch (by decide)).1

theorem respondAll_halted_frame {events : List Event} {s t : State} (hhalt : s.halt ≠ .running)
    (he : ∀ e ∈ events, e.isReset = false) (h : respondAll events s = .next t) :
    OnlyChanges hostParts s t := by
  induction events generalizing s with
  | nil =>
    cases h
    exact OnlyChanges.refl hostParts _
  | cons e rest ih =>
    obtain ⟨he, hrest⟩ := List.forall_mem_cons.1 he
    obtain ⟨u, hu, hut⟩ := respondAll_cons_next h
    have hsu := respond_halted_frame hhalt he hu
    exact hsu.trans (ih (by rwa [halt_eq_of_hostParts hsu]) hrest hut)

theorem respondAll_halted_next {events : List Event} {s : State} (hhalt : s.halt ≠ .running)
    (hfailed : ¬ s.ResetFailed) (he : ∀ e ∈ events, e.isReset = false) :
    ∃ t, respondAll events s = .next t := by
  induction events generalizing s with
  | nil => exact ⟨s, rfl⟩
  | cons e rest ih =>
    obtain ⟨he, hrest⟩ := List.forall_mem_cons.1 he
    obtain ⟨u, hu⟩ := respond_next e hfailed
    have hsu := halt_eq_of_hostParts (respond_halted_frame hhalt he hu)
    rw [respondAll_cons_of_next rest hu]
    exact ih (by rwa [hsu]) (by rwa [State.ResetFailed, hsu]) hrest

/-- Settles O51: by induction over the events, the latch being kept by each. -/
theorem haltLastsUntilReset : Obligations.HaltLastsUntilReset := fun _ _ hhalt he =>
  ⟨fun hfailed => respondAll_halted_next hhalt hfailed he,
    fun _ h => respondAll_halted_frame hhalt he h⟩

end Sys2Proof.Machine
end

section
/-! The invariants of 10_state.md R35: they hold after reset, and every step and every event keeps
them. -/

namespace Sys2Proof.Machine

/-! ### The parts of `State.Inv` -/

theorem inv_iff_of_not_resetFailed {s : State} (h : ¬ s.ResetFailed) :
    s.Inv ↔ s.mem.wf ∧ s.pc.toNat ≤ 4350 ∧ s.stk[0] = 0 ∧
      (∀ k : Fin 16, (s.stk[k.val]).toNat ≤ 4096) ∧ s.RecordAgrees :=
  and_congr_right fun _ => or_iff_right h

theorem recordAgrees_iff_of_running {s : State} (h : s.halt = .running) :
    s.RecordAgrees ↔ s.faultInfo = 0 ∧ s.faultPc = 0 ∧ s.faultOp = 0 := by
  rw [State.RecordAgrees, h]

/-- The invariants read neither `rand_in`, nor the step's result, nor the host's parts; REDRAW they read
of a halted machine alone. -/
theorem State.Inv.beginStep {s : State} (hs : s.Inv) (hrun : s.halt = .running) (rand : Byte) :
    (s.beginStep rand).Inv := by
  obtain ⟨hmem, hpc, h0, hstk, hrec⟩ :=
    (inv_iff_of_not_resetFailed (State.not_resetFailed_of_running hrun)).1 hs
  refine ⟨hmem, .inr ⟨hpc, h0, hstk, ?_⟩⟩
  exact (recordAgrees_iff_of_running (s := s.beginStep rand) hrun).2
    ((recordAgrees_iff_of_running hrun).1 hrec)

theorem State.Inv.nextDraw {s : State} (hs : s.Inv) : s.nextDraw.Inv := hs

theorem State.Inv.tick {s : State} (hs : s.Inv) : s.tick.Inv := hs

theorem State.Inv.setKeys {s : State} (hs : s.Inv) (k : BitVec 16) : (s.setKeys k).Inv := hs

/-! ### Taking a fatal condition -/

/-- Every fatal condition of an instruction, with the values that its FAULT_INFO can have. -/
theorem raises_cases {i : Instr} {s : State} {c : FatalCondition} {k : Nat}
    (h : Raises i s = some (c, k)) :
    (c = .addressOutOfRange ∧ 4096 ≤ k ∧ k ≤ 65535) ∨
    (c = .stackOverflow ∧ s.sp = 15 ∧ k = s.pc.toNat) ∨
    (c = .stackUnderflow ∧ s.sp = 0 ∧ k = s.pc.toNat) ∨
    (c = .keyOutOfRange ∧ 16 ≤ k ∧ k ≤ 255) := by
  cases i with
  | drw x y n | bcd x | stm x | ldm x =>
    obtain ⟨-, ⟨⟩⟩ := Option.ite_none_right_eq_some.1 h
    exact .inl ⟨rfl, by omega, by omega⟩
  | call nnn =>
    obtain ⟨hsp, ⟨⟩⟩ := Option.ite_none_right_eq_some.1 h
    exact .inr (.inl ⟨rfl, BitVec.eq_of_toNat_eq hsp, rfl⟩)
  | ret =>
    obtain ⟨hsp, ⟨⟩⟩ := Option.ite_none_right_eq_some.1 h
    exact .inr (.inr (.inl ⟨rfl, BitVec.eq_of_toNat_eq hsp, rfl⟩))
  | skp x | sknp x =>
    obtain ⟨hkey, ⟨⟩⟩ := Option.ite_none_right_eq_some.1 h
    exact .inr (.inr (.inr ⟨rfl, hkey, by omega⟩))
  | _ => cases h

theorem recordAgrees_raise {i : Instr} {s : State} {c : FatalCondition} {info : BitVec 17}
    (op : Word) (hclear : s.redraw = false) (h : Raises i s = some (c, info.toNat)) :
    (s.raise c info op).RecordAgrees := by
  obtain ⟨rfl, hlow, hhigh⟩ | ⟨rfl, hsp, hk⟩ | ⟨rfl, hsp, hk⟩ | ⟨rfl, hlow, hhigh⟩ := raises_cases h
  · exact ⟨Nat.le_trans (by decide) hlow, hhigh, rfl, hclear⟩
  · exact ⟨hsp, hk, rfl, hclear⟩
  · exact ⟨hsp, hk, rfl, hclear⟩
  · exact ⟨hlow, hhigh, rfl, hclear⟩

/-- The record of a failed fetch: FAULT_INFO is PC, at least 4095 (60_exceptions.md R171). -/
theorem recordAgrees_fetchFault {s : State} (hclear : s.redraw = false) (hf : s.fetch = none) :
    s.fetchFault.RecordAgrees := by
  have hpc : ¬ s.pc.toNat ≤ 4094 := by simp [← State.fetch_isSome_iff, hf]
  have hinfo : (s.pc.setWidth 17).toNat = s.pc.toNat := by
    rw [BitVec.toNat_setWidth, Nat.mod_eq_of_lt (by omega)]
  refine ⟨?_, ?_, rfl, hclear⟩ <;> rw [State.fetchFault_eq, State.raise_faultInfo, hinfo] <;> omega

/-- A fatal condition writes the latch and its record only, so the record is all there is to check. -/
theorem State.Inv.raise {s : State} {c : FatalCondition} {info : BitVec 17} {op : Word} (hs : s.Inv)
    (hrun : s.halt = .running) (hrec : (s.raise c info op).RecordAgrees) :
    (s.raise c info op).Inv := by
  obtain ⟨hmem, hpc, h0, hstk, -⟩ :=
    (inv_iff_of_not_resetFailed (State.not_resetFailed_of_running hrun)).1 hs
  exact ⟨hmem, .inr ⟨hpc, h0, hstk, hrec⟩⟩

/-! ### An instruction that raises nothing -/

theorem effect_mem_wf {i : Instr} {s : State} (h : Raises i s = none) (hwf : s.mem.wf) :
    (effect i s).mem.wf := by
  obtain hkept | ⟨x, rfl | rfl⟩ := effect_mem i s
  · rwa [hkept]
  · have hfits : ¬ 4096 ≤ s.i.toNat + 2 := by simpa [Raises] using h
    refine Memory.wf_setSpan _ hwf ?_
    rw [length_bcdDigits, State.baseAddr, Config.memSize]
    omega
  · have hfits : ¬ 4096 ≤ s.i.toNat + x.val := by simpa [Raises] using h
    refine Memory.wf_setSpan _ hwf ?_
    rw [State.length_vRange, State.baseAddr, Config.memSize]
    omega

theorem pc_le_of_pcPlus {k : Nat} {s t : State} (hk : k ≤ 4) (hpc : s.pc.toNat ≤ 4094)
    (h : PcPlus k s t) : t.pc.toNat ≤ 4350 := by
  rw [PcPlus] at h
  omega

/-- The bound of R35 (d): 4350 = 255 + 4095 is the furthest that `JPV0` reaches, and every other
instruction stays below, from a PC that the fetch accepted. -/
theorem pc_le_of_pcRule {i : Instr} {s t : State} (hpc : s.pc.toNat ≤ 4094)
    (hstk : ∀ k : Fin 16, (s.stk[k.val]).toNat ≤ 4096) (h : PcRule i s t) :
    t.pc.toNat ≤ 4350 := by
  cases i with
  | jp nnn | call nnn =>
    have hjump : t.pc.toNat = nnn.toNat := h
    omega
  | ret =>
    have hpop : t.pc = s.top := h
    have htop : s.top.toNat ≤ 4096 := hstk ⟨s.sp.toNat, s.sp.isLt⟩
    rw [hpop]
    omega
  | jpv0 nnn =>
    have hjump : t.pc.toNat = (s.getV 0).toNat + nnn.toNat := h
    omega
  | sek | snek | se | sne | skp | sknp =>
    obtain h | h := h
    · exact pc_le_of_pcPlus (by omega) hpc h
    · exact pc_le_of_pcPlus (by omega) hpc h
  | waitk x =>
    obtain ⟨-, hstay⟩ | ⟨-, hnext⟩ := ite_prop_iff_or.1 h
    · rw [hstay]
      omega
    · exact pc_le_of_pcPlus (by omega) hpc hnext
  | _ => exact pc_le_of_pcPlus (k := 2) (by omega) hpc h

theorem effect_stk_zero {i : Instr} {s : State} (h : Raises i s = none) :
    (effect i s).stk[0] = s.stk[0] :=
  (effect_stk h 0).resolve_right fun hpush => hpush.1 rfl

/-- A push stores PC + 2, which is at most 4096 where the fetch succeeded (R35 (c)). -/
theorem effect_stk_le {i : Instr} {s : State} (h : Raises i s = none) (hpc : s.pc.toNat ≤ 4094)
    (hstk : ∀ k : Fin 16, (s.stk[k.val]).toNat ≤ 4096) (k : Fin 16) :
    ((effect i s).stk[k.val]).toNat ≤ 4096 := by
  obtain hkept | ⟨-, hpush, -⟩ := effect_stk h k
  · rw [hkept]
    exact hstk k
  · rw [hpush]
    bv_omega

theorem effect_recordAgrees {i : Instr} {s : State} (h : Raises i s = none)
    (hrun : s.halt = .running) (hrec : s.RecordAgrees) : (effect i s).RecordAgrees := by
  obtain ⟨hhalt, hinfo, hpc, hop, -⟩ | ⟨c, info, -, hr⟩ := exec_cases (exec_of_raises_none h)
  · rw [recordAgrees_iff_of_running (hhalt.trans hrun), hinfo, hpc, hop]
    exact (recordAgrees_iff_of_running hrun).1 hrec
  · rw [h] at hr
    cases hr

/-! ### Every instruction, every step, every event -/

/-- An instruction keeps the invariants from where a step starts it: the machine runs, REDRAW is clear
and the word at PC was fetched. -/
theorem exec_keeps_inv {i : Instr} {b t : State} (hb : b.Inv) (hrun : b.halt = .running)
    (hclear : b.redraw = false) (hpc : b.pc.toNat ≤ 4094) (h : exec i b = .next t) : t.Inv := by
  obtain ⟨hmem, -, h0, hstk, hrec⟩ :=
    (inv_iff_of_not_resetFailed (State.not_resetFailed_of_running hrun)).1 hb
  obtain ⟨hr, rfl⟩ | ⟨c, info, hr, rfl⟩ := exec_next_cases h
  · exact ⟨effect_mem_wf hr hmem, .inr ⟨pc_le_of_pcRule hpc hstk (effect_pcRule i b),
      (effect_stk_zero hr).trans h0, effect_stk_le hr hpc hstk, effect_recordAgrees hr hrun hrec⟩⟩
  · exact hb.raise hrun (recordAgrees_raise _ hclear hr)

/-- The decode warning advances PC from where the fetch succeeded. -/
theorem State.Inv.unrecognised {b : State} (hb : b.Inv) (hrun : b.halt = .running)
    (hpc : b.pc.toNat ≤ 4094) (op : Word) : (b.unrecognised op).Inv := by
  obtain ⟨hmem, -, h0, hstk, hrec⟩ :=
    (inv_iff_of_not_resetFailed (State.not_resetFailed_of_running hrun)).1 hb
  have hplus : PcPlus 2 b (b.unrecognised op) := pcPlus_of_pc_eq_add (w := 2) rfl
  refine ⟨hmem, .inr ⟨pc_le_of_pcPlus (by omega) hpc hplus, h0, hstk, ?_⟩⟩
  exact (recordAgrees_iff_of_running (s := b.unrecognised op) hrun).2
    ((recordAgrees_iff_of_running hrun).1 hrec)

theorem stepWith_keeps_inv {s t : State} {rand : Byte} (hs : s.Inv)
    (h : stepWith rand s = .next t) : t.Inv := by
  obtain ⟨hrun, hcases⟩ := stepWith_cases h
  have hb := hs.beginStep hrun rand
  obtain ⟨hf, rfl⟩ | ⟨op, hf, hop⟩ := hcases
  · exact hb.raise hrun (recordAgrees_fetchFault (s := s.beginStep rand) rfl hf)
  · have hpc : s.pc.toNat ≤ 4094 := s.fetch_isSome_iff.1 (by rw [hf]; rfl)
    obtain ⟨i, -, he⟩ | ⟨e, -, rfl⟩ := hop
    · exact exec_keeps_inv hb hrun rfl hpc he
    · exact hb.unrecognised hrun hpc op

/-- Settles O56: `step` is `stepWith` with the draw counter moved on, which the invariants do not
read. -/
theorem stepKeepsInvariant : Obligations.StepKeepsInvariant :=
  fun _ _ hs h => stepWith_keeps_inv hs.nextDraw h

/-- Settles O55: the machine runs after reset, so the record that must agree is the zero record. -/
theorem resetMeetsInvariant : Obligations.ResetMeetsInvariant := by
  refine ⟨Memory.wf_nil, .inr ⟨by decide, rfl, by decide, ?_⟩⟩
  exact (recordAgrees_iff_of_running rfl).2 ⟨rfl, rfl, rfl⟩

/-- A successful `Reset` differs from the state after reset in memory and the draw counter only. -/
theorem loaded_inv (s : State) (font : Vector Byte 80) {program : List Byte}
    (h : program.length ≤ Config.progMax) : (s.loaded font program).Inv := by
  obtain ⟨-, hregs⟩ := resetMeetsInvariant
  refine ⟨Memory.wf_setSpan _ (Memory.wf_setSpan _ Memory.wf_nil ?_) ?_, hregs⟩
  · simp [Config.memSize]
  · simp only [Config.progMax, Config.progBase, Config.memSize] at h ⊢
    omega

theorem loadFailed_inv (s : State) (program : List Byte) : (s.loadFailed program).Inv :=
  ⟨by rw [State.loadFailed_mem]; exact Memory.wf_normalize _, .inl rfl⟩

theorem load_inv (s : State) (font : Vector Byte 80) (program : List Byte) :
    (s.load font program).Inv := by
  rw [State.load]
  split
  · exact loadFailed_inv s program
  · exact loaded_inv s font (by omega)

theorem State.Inv.afterStep {s : State} (hs : s.Inv) (rand : Byte) : (s.afterStep rand).Inv := by
  cases hh : s.halt with
  | fatal c =>
    rw [State.afterStep_halted rand hh]
    exact hs
  | running =>
    obtain ⟨t, ht⟩ := stepWith_next_of_running rand hh
    rw [State.afterStep_of_next ht]
    exact stepWith_keeps_inv hs ht

/-- Settles O57: along the four events. -/
theorem eventsKeepInvariant : Obligations.EventsKeepInvariant := by
  intro e s t hs h
  obtain ⟨font, program, -, rfl⟩ |
    ⟨-, ⟨rand, -, rfl⟩ | ⟨-, rfl⟩ | ⟨k, -, rfl⟩⟩ := respond_cases h
  · exact load_inv s font program
  · exact hs.afterStep rand
  · exact hs.tick
  · exact hs.setKeys k

/-- Settles O50: what the default table stores is what an unlisted address reads as, so the canonical
memory lists nothing. -/
theorem resetStateIsEmptyLoad : Obligations.ResetStateIsEmptyLoad := by
  unfold Obligations.ResetStateIsEmptyLoad
  rfl

end Sys2Proof.Machine
end

section
/-! The memory statements (20_memory.md R50 to R63): span stores, the canonical form as a normal form,
and the fetch of bytes that were stored. -/

namespace Sys2Proof.Machine

namespace Memory

/-! ### Canonical memories with equal contents -/

@[simp] theorem get_head (c : Host.Cell) (rest : Memory) : get (c :: rest) c.1 = c.2 := if_pos rfl

theorem get_cons_ne {c : Host.Cell} (rest : Memory) {k : Nat} (h : k ≠ c.1) :
    get (c :: rest) k = get rest k := if_neg h.symm

theorem get_head_ne_background {c : Host.Cell} {rest : Memory} (h : wf (c :: rest)) :
    get (c :: rest) c.1 ≠ background c.1 := by
  rw [get_head]
  exact (h.2 c List.mem_cons_self).2

/-- Below its head a canonical memory reads as the background, at its head it does not. -/
theorem head_le_of_get_eq {c d : Host.Cell} {rest rest' : Memory} (hc : wf (c :: rest))
    (hd : wf (d :: rest')) (h : ∀ a, get (c :: rest) a = get (d :: rest') a) : d.1 ≤ c.1 :=
  Nat.le_of_not_lt fun hlt => get_head_ne_background hc ((h c.1).trans (get_of_lt_head hd hlt))

theorem head_eq_of_get_eq {c d : Host.Cell} {rest rest' : Memory} (hc : wf (c :: rest))
    (hd : wf (d :: rest')) (h : ∀ a, get (c :: rest) a = get (d :: rest') a) : c = d := by
  have haddr : c.1 = d.1 :=
    Nat.le_antisymm (head_le_of_get_eq hd hc fun a => (h a).symm) (head_le_of_get_eq hc hd h)
  have hbyte := h c.1
  rw [get_head, haddr, get_head] at hbyte
  exact Prod.ext haddr hbyte

/-- Under the head's address both tails read as the background, elsewhere as the whole memories. -/
theorem tail_get_eq_of_get_eq {c : Host.Cell} {rest rest' : Memory} (hc : wf (c :: rest))
    (hc' : wf (c :: rest')) (h : ∀ a, get (c :: rest) a = get (c :: rest') a) (a : Nat) :
    get rest a = get rest' a := by
  by_cases ha : a = c.1
  · rw [ha, get_tail_of_head hc, get_tail_of_head hc']
  · rw [← get_cons_ne rest ha, ← get_cons_ne rest' ha, h]

theorem eq_of_get_eq {m m' : Memory} (hm : m.wf) (hm' : m'.wf) (h : ∀ a, m.get a = m'.get a) :
    m = m' := by
  induction m generalizing m' with
  | nil =>
    cases m' with
    | nil => rfl
    | cons d rest' => exact absurd (h d.1).symm (get_head_ne_background hm')
  | cons c rest ih =>
    cases m' with
    | nil => exact absurd (h c.1) (get_head_ne_background hm)
    | cons d rest' =>
      obtain rfl := head_eq_of_get_eq hm hm' h
      rw [ih (wf_tail hm) (wf_tail hm') (tail_get_eq_of_get_eq hm hm' h)]

end Memory

/-- Settles O7: by induction along both lists; the heads are the same entry, and the tails are
canonical with equal contents again. -/
theorem equalContentsEqualMemories : Obligations.EqualContentsEqualMemories :=
  fun _ _ hm hm' h => Memory.eq_of_get_eq hm hm' h

/-- Settles O6: one law of the span store for each clause. -/
theorem spanStoreThenRead : Obligations.SpanStoreThenRead := fun m a bytes =>
  ⟨Memory.get_setSpan_inside bytes m a, fun _ => Memory.get_setSpan_outside bytes m,
    fun hwf hfits => Memory.wf_setSpan bytes hwf hfits⟩

/-! ### The fetch -/

theorem succ_lt_memSize_iff {a : Nat} : a + 1 < Config.memSize ↔ a ≤ 4094 := by
  rw [Config.memSize]
  omega

theorem State.fetch_of_pc_le {s : State} (h : s.pc.toNat ≤ 4094) :
    s.fetch = some (wordOfBytes (s.mem.get s.pc.toNat) (s.mem.get (s.pc.toNat + 1))) :=
  if_pos (succ_lt_memSize_iff.2 h)

theorem State.fetch_of_le_pc {s : State} (h : 4095 ≤ s.pc.toNat) : s.fetch = none :=
  if_neg fun hfits => Nat.not_succ_le_self 4094 (h.trans (succ_lt_memSize_iff.1 hfits))

/-- Settles O5: the fetched word is made of the two bytes, high byte first. -/
theorem fetchIsBigEndian : Obligations.FetchIsBigEndian := fun _ =>
  ⟨fun h => ⟨_, State.fetch_of_pc_le h, toNat_wordOfBytes _ _⟩, State.fetch_of_le_pc⟩

/-- What a span store put at PC and PC + 1 is fetched, wherever the span begins (20_memory.md R63). -/
theorem State.fetch_of_setSpan {t : State} {m : Memory} {a j : Nat} {bytes : List Byte}
    (hmem : t.mem = m.setSpan a bytes) (hpc : t.pc.toNat = a + j) (hj : j + 1 < bytes.length)
    (hle : t.pc.toNat ≤ 4094) :
    t.fetch = some (wordOfBytes (bytes[j]'(Nat.lt_of_succ_lt hj)) bytes[j + 1]) := by
  rw [State.fetch_of_pc_le hle, hmem, hpc, Nat.add_assoc, Memory.get_setSpan_inside,
    Memory.get_setSpan_inside]

/-- Settles O8: a span that fits raises nothing, so `STM` answers its effect, where byte `j` of the
stored span is `V[j]`. -/
theorem storedBytesAreFetchedNext : Obligations.StoredBytesAreFetchedNext := by
  intro x s j hj hfits hpc
  have hraises : Raises (.stm x) s = none := if_neg (by omega)
  have hnext : (effect (.stm x) s).pc.toNat = s.baseAddr + j :=
    (effect_pcRule (.stm x) s).trans hpc
  have hbase : s.baseAddr = s.i.toNat := rfl
  have hfetch := State.fetch_of_setSpan (t := effect (.stm x) s) (bytes := s.vRange x) rfl hnext
    (by rw [State.length_vRange]; omega) (by omega)
  refine ⟨_, _, exec_of_raises_none hraises, hfetch, ?_⟩
  rw [toNat_wordOfBytes, State.getElem_vRange, State.getElem_vRange]

/-! ### Placing a word (log 18) -/

theorem State.setMem_frame (s : State) (m : Memory) : OnlyChanges [.memory] s (s.setMem m) := by
  intro p hp
  cases p <;> simp_all [SamePart]

theorem State.withFetchWord_of_pc_le {s : State} (nbits w : Nat) (h : s.pc.toNat ≤ 4094) :
    s.withFetchWord nbits w = s.setMem
      (s.mem.setSpan s.pc.toNat [(tableBytes nbits w).1, (tableBytes nbits w).2]) :=
  if_pos (succ_lt_memSize_iff.2 h)

theorem wordOfBytes_extractLsb' (w : Word) :
    wordOfBytes (w.extractLsb' 8 8) (w.extractLsb' 0 8) = w := by
  apply BitVec.eq_of_toNat_eq
  rw [toNat_wordOfBytes, BitVec.extractLsb'_toNat, BitVec.extractLsb'_toNat, Nat.shiftRight_eq_div_pow]
  omega

theorem wordOfBytes_tableBytes (w : Nat) :
    wordOfBytes (tableBytes 16 w).1 (tableBytes 16 w).2 = BitVec.ofNat 16 w := by
  rw [tableBytes, wordOfBytes_extractLsb']
  exact BitVec.eq_of_toNat_eq (by simp)

theorem State.fetch_withFetchWord {s : State} (w : Nat) (h : s.pc.toNat ≤ 4094) :
    (s.withFetchWord 16 w).fetch = some (BitVec.ofNat 16 w) := by
  rw [State.withFetchWord_of_pc_le 16 w h, ← wordOfBytes_tableBytes]
  generalize tableBytes 16 w = b
  exact State.fetch_of_setSpan (bytes := [b.1, b.2]) (j := 0) rfl rfl Nat.one_lt_two h

/-- Settles O10: the placing is a span store of two bytes at PC. -/
theorem placedWordIsFetched : Obligations.PlacedWordIsFetched := by
  intro s w hpc
  refine ⟨State.fetch_withFetchWord w hpc, ?_⟩
  rw [State.withFetchWord_of_pc_le 16 w hpc]
  refine ⟨s.setMem_frame _, fun a hne hne' => Memory.get_setSpan_outside _ _ ?_⟩
  rw [List.length_cons, List.length_singleton]
  omega

end Sys2Proof.Machine
end

section
/-! The encoding statements (30_encoding.md R70 to R78): decoding and encoding are inverse on the
well-formed instructions and the recognised words, and which words are left over. -/

namespace Sys2Proof

/-! ### The FIXED words stand apart (R74) -/

theorem decode_eq_decodeClass {op : Word} (hcls : op ≠ 0x00E0#16) (hret : op ≠ 0x00EE#16) :
    decode op = decodeClass op := by
  rw [decode, if_neg hcls, if_neg hret]

/-- Both FIXED words are of class 0. -/
theorem decode_eq_decodeClass_of_class {op : Word} (h : fieldClass op ≠ 0) :
    decode op = decodeClass op :=
  decode_eq_decodeClass (fun he => h (by rw [he]; rfl)) fun he => h (by rw [he]; rfl)

/-! ### Decoding an encoded instruction -/

theorem decode_encode_sys {nnn : Imm12} (h : (Instr.sys nnn).wf = true) :
    decode (encode (.sys nnn)) = .ok (.sys nnn) := by
  obtain ⟨hcls, hret⟩ : nnn ≠ 0x0E0#12 ∧ nnn ≠ 0x0EE#12 := by simpa [Instr.wf] using h
  have hnnn : fieldNNN (encode (.sys nnn)) = nnn := fieldNNN_packNNN 0 nnn
  rw [decode_eq_decodeClass]
  · simp [decodeClass, encode]
  · exact fun he => hcls (hnnn.symm.trans (congrArg fieldNNN he))
  · exact fun he => hret (hnnn.symm.trans (congrArg fieldNNN he))

/-- Settles O2: outside the FIXED words and `SYS` the class is not 0, so `decodeClass` decides, by the
class alone or by the minor opcode of classes 8, 0xE and 0xF; the packed fields are read back. -/
theorem decodeOfEncode : Obligations.DecodeOfEncode := by
  intro i hwf
  cases i with
  | cls | ret => rfl
  | sys nnn => exact decode_encode_sys hwf
  | mov x y | or x y | and x y | xor x y | add x y | sub x y | shr x y | subn x y | shl x y =>
    rw [decode_eq_decodeClass_of_class] <;> simp [decodeClass, decodeArith, encode]
  | skp x | sknp x =>
    rw [decode_eq_decodeClass_of_class] <;> simp [decodeClass, decodeKey, encode]
  | getdt x | waitk x | setdt x | setst x | addi x | font x | bcd x | stm x | ldm x =>
    rw [decode_eq_decodeClass_of_class] <;> simp [decodeClass, decodeMisc, encode]
  | _ => rw [decode_eq_decodeClass_of_class] <;> simp [decodeClass, encode]

/-! ### Encoding a decoded word -/

theorem wf_encode_of_decodeArith {op : Word} {i : Instr} (hc : (fieldClass op).toNat = 0x8)
    (h : decodeArith op = .ok i) : i.wf = true ∧ encode i = op := by
  rw [decodeArith] at h
  split at h
  case h_10 => cases h
  all_goals
    obtain rfl := Except.ok.inj h
    exact ⟨rfl, packXYN_of_minor _ _ hc ‹_›⟩

theorem wf_encode_of_decodeKey {op : Word} {i : Instr} (hc : (fieldClass op).toNat = 0xE)
    (h : decodeKey op = .ok i) : i.wf = true ∧ encode i = op := by
  rw [decodeKey] at h
  split at h
  case h_3 => cases h
  all_goals
    obtain rfl := Except.ok.inj h
    exact ⟨rfl, packXNN_of_minor _ _ hc ‹_›⟩

theorem wf_encode_of_decodeMisc {op : Word} {i : Instr} (hc : (fieldClass op).toNat = 0xF)
    (h : decodeMisc op = .ok i) : i.wf = true ∧ encode i = op := by
  rw [decodeMisc] at h
  split at h
  case h_10 => cases h
  all_goals
    obtain rfl := Except.ok.inj h
    exact ⟨rfl, packXNN_of_minor _ _ hc ‹_›⟩

/-- A word of class 0 whose `nnn` is that of a FIXED word is the FIXED word. -/
theorem wf_sys_fieldNNN {op : Word} (hc : (fieldClass op).toNat = 0x0) (hcls : op ≠ 0x00E0#16)
    (hret : op ≠ 0x00EE#16) : (Instr.sys (fieldNNN op)).wf = true := by
  have hop : packNNN 0 (fieldNNN op) = op := packNNN_of_class 0 hc
  rw [Instr.wf, Bool.and_eq_true, bne_iff_ne, bne_iff_ne]
  exact ⟨fun he => hcls (by rw [← hop, he]; rfl), fun he => hret (by rw [← hop, he]; rfl)⟩

/-- Case `h_k` is class `k - 1`; the word is packed again from the fields that the class reads. -/
theorem wf_encode_of_decodeClass {op : Word} {i : Instr} (hcls : op ≠ 0x00E0#16)
    (hret : op ≠ 0x00EE#16) (h : decodeClass op = .ok i) : i.wf = true ∧ encode i = op := by
  rw [decodeClass] at h
  split at h
  case h_1 hc => cases h; exact ⟨wf_sys_fieldNNN hc hcls hret, packNNN_of_class _ hc⟩
  case h_2 hc | h_3 hc | h_11 hc | h_12 hc => cases h; exact ⟨rfl, packNNN_of_class _ hc⟩
  case h_4 hc | h_5 hc | h_7 hc | h_8 hc | h_13 hc => cases h; exact ⟨rfl, packXNN_of_class _ hc⟩
  case h_6 hc | h_10 hc =>
    split at h
    case isTrue hn => cases h; exact ⟨rfl, packXYN_of_minor _ _ hc (congrArg BitVec.toNat hn)⟩
    case isFalse => cases h
  case h_14 hc => cases h; exact ⟨rfl, packXYN_of_class _ hc⟩
  case h_9 hc => exact wf_encode_of_decodeArith hc h
  case h_15 hc => exact wf_encode_of_decodeKey hc h
  case h_16 hc => exact wf_encode_of_decodeMisc hc h
  case h_17 => cases h

/-- Settles O3: the FIXED words are what `CLS` and `RET` encode to, every other word goes by its
class. -/
theorem encodeOfDecode : Obligations.EncodeOfDecode := by
  intro op i h
  rw [decode] at h
  split_ifs at h with hcls hret
  · cases h; exact ⟨rfl, hcls.symm⟩
  · cases h; exact ⟨rfl, hret.symm⟩
  · exact wf_encode_of_decodeClass hcls hret h

/-! ### The fields as numbers (R71) -/

theorem fieldClass_toNat (op : Word) : (fieldClass op).toNat = op.toNat / 4096 := by
  rw [fieldClass, BitVec.extractLsb'_toNat, Nat.shiftRight_eq_div_pow]
  omega

theorem fieldN_toNat (op : Word) : (fieldN op).toNat = op.toNat % 16 := by
  rw [fieldN, BitVec.extractLsb'_toNat, Nat.shiftRight_zero]

theorem fieldNN_toNat (op : Word) : (fieldNN op).toNat = op.toNat % 256 := by
  rw [fieldNN, BitVec.extractLsb'_toNat, Nat.shiftRight_zero]

/-! ### The words that no minor opcode matches (R77) -/

theorem decodeArith_unrecognised_iff (op : Word) : decodeArith op = .error (.unrecognised op) ↔
    (fieldN op).toNat ∉ [0x0, 0x1, 0x2, 0x3, 0x4, 0x5, 0x6, 0x7, 0xE] := by
  rw [decodeArith]
  split <;> simp_all

/-- R77 lists the minor opcodes that class 8 lacks, R75 those that it has. -/
theorem not_mem_arithMinors_iff : ∀ n < 16, n ∉ [0x0, 0x1, 0x2, 0x3, 0x4, 0x5, 0x6, 0x7, 0xE] ↔
    n ∈ [8, 9, 0xA, 0xB, 0xC, 0xD, 0xF] := by
  decide

theorem decodeKey_unrecognised_iff (op : Word) : decodeKey op = .error (.unrecognised op) ↔
    (fieldNN op).toNat ∉ [0x9E, 0xA1] := by
  rw [decodeKey]
  split <;> simp_all

theorem decodeMisc_unrecognised_iff (op : Word) : decodeMisc op = .error (.unrecognised op) ↔
    (fieldNN op).toNat ∉ [0x07, 0x0A, 0x15, 0x18, 0x1E, 0x29, 0x33, 0x55, 0x65] := by
  rw [decodeMisc]
  split <;> simp_all

/-- The five families of R77 by class, `n` and `nn`. -/
def UnrecognisedFields (c n nn : Nat) : Prop :=
  ((c = 5 ∨ c = 9) ∧ n ≠ 0) ∨
  (c = 8 ∧ n ∈ [8, 9, 0xA, 0xB, 0xC, 0xD, 0xF]) ∨
  (c = 14 ∧ nn ∉ [0x9E, 0xA1]) ∨
  (c = 15 ∧ nn ∉ [0x07, 0x0A, 0x15, 0x18, 0x1E, 0x29, 0x33, 0x55, 0x65])

/-- Case `h_k` is class `k - 1`, which has 4 bits, so there is no `h_17`; a class with one row, all of
its digits operands, leaves no word over. -/
theorem decodeClass_unrecognised_iff (op : Word) : decodeClass op = .error (.unrecognised op) ↔
    UnrecognisedFields (fieldClass op).toNat (fieldN op).toNat (fieldNN op).toNat := by
  rw [decodeClass, UnrecognisedFields]
  split
  case h_6 hc | h_10 hc => simp [hc, BitVec.toNat_eq]
  case h_9 hc =>
    rw [decodeArith_unrecognised_iff, not_mem_arithMinors_iff _ (fieldN op).isLt]
    simp [hc]
  case h_15 hc =>
    rw [decodeKey_unrecognised_iff]
    simp [hc]
  case h_16 hc =>
    rw [decodeMisc_unrecognised_iff]
    simp [hc]
  case h_17 =>
    have hc := (fieldClass op).isLt
    grind
  case h_1 hc | h_2 hc | h_3 hc | h_4 hc | h_5 hc | h_7 hc | h_8 hc | h_11 hc | h_12 hc | h_13 hc
      | h_14 hc =>
    simp [hc]

/-- Settles O4: the FIXED words are of none of the families, and every other word goes by its class. -/
theorem unrecognisedWordsExactly : Obligations.UnrecognisedWordsExactly := by
  intro op
  by_cases hcls : op = 0x00E0#16
  · subst hcls; decide
  by_cases hret : op = 0x00EE#16
  · subst hret; decide
  rw [decode_eq_decodeClass hcls hret, decodeClass_unrecognised_iff, fieldClass_toNat, fieldN_toNat,
    fieldNN_toNat, UnrecognisedFields]

/-- Settles O1: the decoder runs on each of the twelve words. -/
theorem specWordsDecode : Obligations.SpecWordsDecode := by
  unfold Obligations.SpecWordsDecode
  decide

end Sys2Proof

namespace Sys2Proof.Machine

/-! ### The step of an unrecognised word (R76) -/

theorem step_unrecognised {s : State} {op : Word} {e : DecodeError} (h : s.halt = .running)
    (hf : s.fetch = some op) (hd : decode op = .error e) :
    step s = .next ((s.nextDraw.beginStep (Config.rand s.randIdx)).unrecognised op) :=
  stepWith_unrecognised (s := s.nextDraw) _ (by simpa using h) (by simpa using hf) hd

theorem State.unrecognised_beginStep_nextDraw_frame (s : State) (rand : Byte) (op : Word) :
    OnlyChanges [.pc, .result, .redraw, .rand] s ((s.nextDraw.beginStep rand).unrecognised op) := by
  intro p hp
  cases p with
  | pc | result | redraw | rand => simp at hp
  | _ => simp [SamePart]

/-- Settles O12: the step answers the warning from the state that the step starts from, which has the PC
of `s`. -/
theorem unrecognisedWordWarns : Obligations.UnrecognisedWordWarns := fun s op hrun hfetch hdec =>
  ⟨_, step_unrecognised hrun hfetch hdec, s.unrecognised_beginStep_nextDraw_frame _ op, rfl,
    pcPlus_of_pc_eq_add (w := 2) rfl, rfl⟩

end Sys2Proof.Machine
end

section
/-! Jumps, `CALL` and `RET` (40_flow.md R100 to R104): the rules of the stack, and the frames of the
operations that the five instructions are made of. -/

namespace Sys2Proof.Machine

/-! ### The stack -/

theorem State.push_sp_toNat {s : State} (w : Word) (h : s.sp.toNat ≠ 15) :
    (s.push w).sp.toNat = s.sp.toNat + 1 := by
  have hsum : (s.push w).sp.toNat = (s.sp.toNat + 1) % 16 := BitVec.toNat_add _ _
  omega

theorem State.pop_sp_toNat {s : State} (h : s.sp.toNat ≠ 0) :
    s.pop.sp.toNat = s.sp.toNat - 1 := by
  have hdiff : s.pop.sp.toNat = (16 - 1 + s.sp.toNat) % 16 := BitVec.toNat_sub _ _
  omega

@[simp] theorem State.top_push (s : State) (w : Word) : (s.push w).top = w :=
  Vector.getElem_set_self _

theorem State.push_stk_ne {s : State} (w : Word) {k : Fin 16} (h : k.val ≠ (s.push w).sp.toNat) :
    (s.push w).stk[k.val] = s.stk[k.val] :=
  Vector.getElem_set_ne (s.push w).sp.isLt _ h.symm

/-! ### Frames -/

theorem OnlyChanges.mono {ps qs : List Part} {s t : State} (h : OnlyChanges ps s t) (hsub : ps ⊆ qs) :
    OnlyChanges qs s t :=
  fun p hp => h p fun hmem => hp (hsub hmem)

theorem State.setPc_frame (s : State) (w : Word) : OnlyChanges [.pc] s (s.setPc w) := by
  intro p hp
  cases p with
  | pc => simp at hp
  | _ => simp [SamePart]

theorem State.push_frame (s : State) (w : Word) : OnlyChanges [.stack] s (s.push w) := by
  intro p hp
  cases p with
  | stack => simp at hp
  | _ => simp [SamePart]

theorem State.pop_frame (s : State) : OnlyChanges [.stack] s s.pop := by
  intro p hp
  cases p with
  | stack => simp at hp
  | _ => simp [SamePart]

theorem effect_call_frame (nnn : Imm12) (s : State) :
    OnlyChanges [.pc, .stack] s (effect (.call nnn) s) :=
  ((s.push_frame _).mono (by simp)).trans ((State.setPc_frame _ _).mono (by simp))

theorem effect_ret_frame (s : State) : OnlyChanges [.pc, .stack] s (effect .ret s) :=
  ((s.setPc_frame _).mono (by simp)).trans ((State.pop_frame _).mono (by simp))

/-! ### The two stack checks -/

/-- What raises takes its condition as R178 says, with the FAULT_INFO of the table of R170. -/
theorem faultsWith_of_raises {i : Instr} {s : State} {c : FatalCondition} {k : Nat}
    (h : Raises i s = some (c, k)) : FaultsWith c k i s := by
  obtain ⟨hr, -⟩ | ⟨c', info, hr, he⟩ := exec_effect_or_raise i s
  · rw [h] at hr
    cases hr
  · obtain ⟨rfl, rfl⟩ := Prod.mk.inj (Option.some.inj (h.symm.trans hr))
    exact faultsWith_of_raise he rfl

theorem exec_call_next (nnn : Imm12) {s : State} (h : s.sp.toNat ≠ 15) :
    exec (.call nnn) s = .next (effect (.call nnn) s) :=
  exec_of_raises_none (if_neg h)

theorem exec_ret_next {s : State} (h : s.sp.toNat ≠ 0) : exec .ret s = .next (effect .ret s) :=
  exec_of_raises_none (if_neg h)

/-! ### The obligations -/

/-- Settles O24: the pushed word is the top that `RET` loads, and the two moves of SP cancel. -/
theorem retUndoesCall : Obligations.RetUndoesCall := by
  intro nnn s here hsp
  have hpush := s.push_sp_toNat (s.pc + 2) hsp
  have hret : ((effect (.call nnn) s).setPc here).sp.toNat ≠ 0 :=
    Eq.trans_ne hpush (Nat.succ_ne_zero _)
  have hpc : (effect .ret ((effect (.call nnn) s).setPc here)).pc = s.pc + 2 :=
    s.top_push (s.pc + 2)
  refine ⟨_, _, exec_call_next nnn hsp, exec_ret_next hret, pcPlus_of_pc_eq_add hpc,
    BitVec.add_sub_cancel s.sp 1, ?_⟩
  have hmoved := ((effect (.call nnn) s).setPc_frame here).mono (qs := [.pc, .stack]) (by simp)
  exact ((effect_call_frame nnn s).trans hmoved).trans (effect_ret_frame _)

/-- Settles O22: split at the check of SP. -/
theorem retPopsOrUnderflows : Obligations.RetPopsOrUnderflows := fun s =>
  ⟨fun hsp => ⟨_, exec_ret_next hsp, effect_ret_frame s, rfl, s.pop_sp_toNat hsp, fun _ => rfl⟩,
    fun hsp => faultsWith_of_raises (if_pos hsp)⟩

/-- Settles O23: split at the check of SP. -/
theorem callPushesOrOverflows : Obligations.CallPushesOrOverflows := by
  intro nnn s
  constructor
  · intro hsp
    have hpush := s.push_sp_toNat (s.pc + 2) hsp
    refine ⟨_, exec_call_next nnn hsp, effect_call_frame nnn s, hpush, ?_, fun k hk => ?_,
      effect_pcRule (.call nnn) s⟩
    · exact (congrArg BitVec.toNat (s.top_push (s.pc + 2))).trans (BitVec.toNat_add _ _)
    · exact State.push_stk_ne (s.pc + 2) (hpush.symm ▸ hk)
  · intro hsp
    exact faultsWith_of_raises (if_pos hsp)

/-- Settles O25: each of the three effects writes PC alone, as its PC rule says. -/
theorem jumpsLoadPc : Obligations.JumpsLoadPc := fun nnn s =>
  ⟨⟨_, exec_of_raises_none rfl, s.setPc_frame _, effect_pcRule (.sys nnn) s⟩,
    ⟨_, exec_of_raises_none rfl, s.setPc_frame _, effect_pcRule (.jp nnn) s⟩,
    ⟨_, exec_of_raises_none rfl, s.setPc_frame _, effect_pcRule (.jpv0 nnn) s⟩⟩

end Sys2Proof.Machine
end

section
/-! The register skips (41_skip.md R110 to R113): the four instructions share one rule and differ in the
condition that they test. -/

namespace Sys2Proof.Machine

theorem State.pcPlus_skipIf {s : State} {cond : Bool} {p : Prop} [Decidable p]
    (hp : cond = true ↔ p) : PcPlus (if p then 4 else 2) s (s.skipIf cond) := by
  by_cases h : p
  · rw [if_pos h, hp.2 h]
    exact pcPlus_of_pc_eq_add (w := 4) rfl
  · rw [if_neg h, Bool.eq_false_iff.2 (mt hp.1 h)]
    exact pcPlus_of_pc_eq_add (w := 2) rfl

/-- The rule of every skip: the test `cond` that `exec` evaluates decides the condition `p`. -/
theorem exec_skipIf_next {i : Instr} {s : State} {cond : Bool} {p : Prop} [Decidable p]
    (he : exec i s = .next (s.skipIf cond)) (hp : cond = true ↔ p) :
    ∃ t, exec i s = .next t ∧ OnlyChanges [.pc] s t ∧ PcPlus (if p then 4 else 2) s t :=
  ⟨s.skipIf cond, he, s.setPc_frame _, State.pcPlus_skipIf hp⟩

/-- Settles O26: one rule for the four, with the equality or the inequality that each tests. -/
theorem registerSkips : Obligations.RegisterSkips := fun _ _ _ _ =>
  ⟨exec_skipIf_next (exec_of_raises_none rfl) beq_iff_eq,
    exec_skipIf_next (exec_of_raises_none rfl) bne_iff_ne,
    exec_skipIf_next (exec_of_raises_none rfl) beq_iff_eq,
    exec_skipIf_next (exec_of_raises_none rfl) bne_iff_ne⟩

end Sys2Proof.Machine
end

section
/-! Register arithmetic and logic (42_alu.md R120 to R133): the rule of the instructions that write one
register, the rule of those that write VF first and then V[x], and the flags as numbers. -/

namespace Sys2Proof.Machine

/-! ### One register written -/

theorem State.setV_frame (s : State) (x : Reg) (b : Byte) : OnlyChanges [.v] s (s.setV x b) := by
  intro p hp
  cases p with
  | v => simp at hp
  | _ => simp [SamePart]

theorem State.advance_frame (s : State) : OnlyChanges [.v, .pc] s s.advance :=
  (s.setPc_frame _).mono (by simp)

/-- The rule of an instruction that writes `b` to V[x]: every property of `b` is one of V[x] after. -/
theorem exec_setV_next {i : Instr} {s : State} {x : Reg} {b : Byte} {p : Byte → Prop}
    (he : exec i s = .next (s.setV x b).advance) (hp : p b) :
    ∃ t, exec i s = .next t ∧ OnlyChanges [.v, .pc] s t ∧ SameVBut [x] s t ∧ p (t.getV x) ∧
      PcPlus 2 s t := by
  refine ⟨_, he, ((s.setV_frame x b).mono (by simp)).trans (State.advance_frame _),
    fun r hr => State.getV_setV_ne s b (List.ne_of_not_mem_cons hr), ?_,
    pcPlus_of_pc_eq_add (w := 2) rfl⟩
  exact (s.getV_setV_same x b).symm ▸ hp

/-- The rule where the byte written is `op` of the bits of `a` and `c`. -/
theorem exec_bitwise_next (op : Bool → Bool → Bool) {i : Instr} {s : State} {x : Reg} {a b c : Byte}
    (he : exec i s = .next (s.setV x b).advance)
    (hb : ∀ k, b.getLsbD k = op (a.getLsbD k) (c.getLsbD k)) :
    ∃ t, exec i s = .next t ∧ OnlyChanges [.v, .pc] s t ∧ SameVBut [x] s t ∧
      (∀ k, (t.getV x).getLsbD k = op (a.getLsbD k) (c.getLsbD k)) ∧ PcPlus 2 s t :=
  exec_setV_next (p := fun b => ∀ k, b.getLsbD k = op (a.getLsbD k) (c.getLsbD k)) he hb

/-! ### The flag written first, then the result (00_scope.md R10, decision D5) -/

/-- The rule of the five flag-setting instructions, in every form: the flag stays in VF unless the
result overwrites it. -/
theorem exec_flagThenResult_next {i : Instr} {s : State} {flag : Byte} {x : Reg} {f : State → Byte}
    (he : exec i s = .next (s.flagThenResult flag x f).advance) :
    ∃ t, exec i s = .next t ∧ WritesV [x, VF] s t ∧ t.getV x = f (s.setV VF flag) ∧
      (x ≠ VF → t.getV VF = flag) := by
  have hframe := ((s.setV_frame VF flag).trans (State.setV_frame _ x (f (s.setV VF flag)))).mono
    (qs := [.v, .pc]) (by simp)
  refine ⟨_, he, ⟨hframe.trans (State.advance_frame _), fun r hr => ?_,
    pcPlus_of_pc_eq_add (w := 2) rfl⟩, State.getV_setV_same _ x _, fun hx => ?_⟩
  · obtain ⟨hx, hf⟩ : r ≠ x ∧ r ≠ VF := by simpa using hr
    exact State.getV_flagThenResult_ne hx hf
  · exact (State.getV_setV_ne _ _ hx.symm).trans (s.getV_setV_same VF flag)

/-- The rule where V[x] is not VF, with both values as numbers. -/
theorem exec_flag_and_result {i : Instr} {s : State} {flag : Byte} {x : Reg} {f : State → Byte}
    {c k : Nat} (he : exec i s = .next (s.flagThenResult flag x f).advance) (hx : x ≠ VF)
    (hk : (f (s.setV VF flag)).toNat = k) (hc : flag.toNat = c) :
    ∃ t, exec i s = .next t ∧ WritesV [x, VF] s t ∧ (t.getV x).toNat = k ∧
      (t.getV VF).toNat = c := by
  obtain ⟨t, ht, hw, hresult, hflag⟩ := exec_flagThenResult_next he
  exact ⟨t, ht, hw, hresult.symm ▸ hk, (hflag hx).symm ▸ hc⟩

/-- The rule where V[x] is VF: the result overwrites the flag, which it may have read. -/
theorem exec_result_over_flag {i : Instr} {s : State} {flag : Byte} {f : State → Byte}
    {p : Byte → Prop} (he : exec i s = .next (s.flagThenResult flag VF f).advance)
    (hp : p (f (s.setV VF flag))) :
    ∃ t, exec i s = .next t ∧ WritesV [VF] s t ∧ p (t.getV VF) := by
  obtain ⟨t, ht, ⟨hframe, hregs, hpc⟩, hresult, -⟩ := exec_flagThenResult_next he
  exact ⟨t, ht, ⟨hframe, fun r hr => hregs r (by simpa using hr), hpc⟩, hresult.symm ▸ hp⟩

/-- The frame `WritesV` written out. -/
theorem exists_next_writesV_iff {i : Instr} {rs : List Reg} {s : State} {p : State → Prop} :
    (∃ t, exec i s = .next t ∧ WritesV rs s t ∧ p t) ↔
      ∃ t, exec i s = .next t ∧ OnlyChanges [.v, .pc] s t ∧ SameVBut rs s t ∧ PcPlus 2 s t ∧ p t := by
  simp only [WritesV, and_assoc]

/-! ### Flags and results as numbers (R120) -/

theorem flagByte_toNat (p : Prop) [Decidable p] :
    (flagByte (decide p)).toNat = if p then 1 else 0 := by
  by_cases h : p <;> simp [flagByte, h]

theorem carryFlag_toNat (a b : Byte) :
    (carryFlag a b).toNat = if a.toNat + b.toNat > 255 then 1 else 0 := flagByte_toNat _

theorem noBorrowFlag_toNat (a b : Byte) :
    (noBorrowFlag a b).toNat = if a.toNat > b.toNat then 1 else 0 := flagByte_toNat _

theorem shiftOutLow_toNat (a : Byte) : (shiftOutLow a).toNat = a.toNat % 2 := by
  rw [shiftOutLow, BitVec.toNat_and]
  exact Nat.and_one_is_mod _

theorem shiftOutHigh_toNat (a : Byte) : (shiftOutHigh a).toNat = a.toNat / 128 := by
  have hlow : (shiftOutHigh a).toNat = (a >>> 7).toNat % 2 := shiftOutLow_toNat (a >>> 7)
  rw [hlow, BitVec.toNat_ushiftRight, Nat.shiftRight_eq_div_pow]
  omega

theorem byte_sub_toNat (a b : Byte) : (a - b).toNat = (a.toNat + 256 - b.toNat) % 256 := by
  rw [BitVec.toNat_sub]
  omega

theorem byte_shiftRight_toNat (a : Byte) : (a >>> 1).toNat = a.toNat / 2 := by
  rw [BitVec.toNat_ushiftRight, Nat.shiftRight_eq_div_pow]

theorem byte_shiftLeft_toNat (a : Byte) : (a <<< 1).toNat = 2 * a.toNat % 256 := by
  rw [BitVec.toNat_shiftLeft, Nat.shiftLeft_eq]
  omega

/-! ### Shifts -/

theorem exec_shr_next {x : Reg} (y : Reg) (s : State) (hx : x ≠ VF) :
    ∃ t, exec (.shr x y) s = .next t ∧ WritesV [x, VF] s t ∧
      (t.getV x).toNat = (s.getV x).toNat / 2 ∧ (t.getV VF).toNat = (s.getV x).toNat % 2 :=
  exec_flag_and_result (exec_of_raises_none rfl) hx
    (by rw [byte_shiftRight_toNat, State.getV_setV_ne s _ hx]) (shiftOutLow_toNat _)

theorem exec_shl_next {x : Reg} (y : Reg) (s : State) (hx : x ≠ VF) :
    ∃ t, exec (.shl x y) s = .next t ∧ WritesV [x, VF] s t ∧
      (t.getV x).toNat = 2 * (s.getV x).toNat % 256 ∧ (t.getV VF).toNat = (s.getV x).toNat / 128 :=
  exec_flag_and_result (exec_of_raises_none rfl) hx
    (by rw [byte_shiftLeft_toNat, State.getV_setV_ne s _ hx]) (shiftOutHigh_toNat _)

theorem shiftOutLow_shiftRight (a : Byte) : shiftOutLow a >>> 1 = 0 := by
  refine BitVec.eq_of_toNat_eq ?_
  rw [byte_shiftRight_toNat, shiftOutLow_toNat]
  exact Nat.div_eq_of_lt (Nat.mod_lt _ Nat.two_pos)

theorem shiftOutHigh_shiftLeft_toNat (a : Byte) :
    (shiftOutHigh a <<< 1).toNat = 2 * (a.toNat / 128) := by
  rw [byte_shiftLeft_toNat, shiftOutHigh_toNat]
  omega

/-! ### Subtractions

`SUB` and `SUBN` differ in which of their two operands is the minuend. Both operands are read again
after the flag write, so where one of them is VF it reads as the flag. -/

theorem exec_subtract_next {i : Instr} {s : State} {x m n : Reg}
    (he : exec i s = .next (s.flagThenResult (noBorrowFlag (s.getV m) (s.getV n)) x
      fun f => f.getV m - f.getV n).advance) (hx : x ≠ VF) (hm : m ≠ VF) (hn : n ≠ VF) :
    ∃ t, exec i s = .next t ∧ WritesV [x, VF] s t ∧
      (t.getV x).toNat = ((s.getV m).toNat + 256 - (s.getV n).toNat) % 256 ∧
      (t.getV VF).toNat = if (s.getV m).toNat > (s.getV n).toNat then 1 else 0 :=
  exec_flag_and_result he hx
    (by rw [byte_sub_toNat, State.getV_setV_ne s _ hm, State.getV_setV_ne s _ hn])
    (noBorrowFlag_toNat _ _)

theorem State.flag_sub_getV_toNat (s : State) {r : Reg} (a b : Byte) (hr : r ≠ VF) :
    ((s.setV VF (noBorrowFlag a b)).getV VF - (s.setV VF (noBorrowFlag a b)).getV r).toNat =
      ((if a.toNat > b.toNat then 1 else 0) + 256 - (s.getV r).toNat) % 256 := by
  rw [byte_sub_toNat, State.getV_setV_same, noBorrowFlag_toNat, State.getV_setV_ne s _ hr]

theorem State.getV_sub_flag_toNat (s : State) {r : Reg} (a b : Byte) (hr : r ≠ VF) :
    ((s.setV VF (noBorrowFlag a b)).getV r - (s.setV VF (noBorrowFlag a b)).getV VF).toNat =
      ((s.getV r).toNat + 256 - (if a.toNat > b.toNat then 1 else 0)) % 256 := by
  rw [byte_sub_toNat, State.getV_setV_same, noBorrowFlag_toNat, State.getV_setV_ne s _ hr]

/-! ### The obligations -/

/-- Settles O29: the sum is taken before the flag is written, so no form of the operands matters. -/
theorem addSumAndCarry : Obligations.AddSumAndCarry := by
  intro x y s
  obtain ⟨t, ht, ⟨hframe, hregs, hpc⟩, hresult, hflag⟩ :=
    exec_flagThenResult_next (i := .add x y) (s := s) (exec_of_raises_none rfl)
  refine ⟨t, ht, hframe, hregs, hpc, ?_, fun hx => ?_⟩
  · rw [hresult, BitVec.toNat_add]
  · rw [hflag hx, carryFlag_toNat]

/-- Settles O30: one rule for the two, with the minuend and the subtrahend exchanged. -/
theorem subtractAndNoBorrow : Obligations.SubtractAndNoBorrow := fun _ _ _ hx hy =>
  ⟨exists_next_writesV_iff.1 (exec_subtract_next (exec_of_raises_none rfl) hx hx hy),
    exists_next_writesV_iff.1 (exec_subtract_next (exec_of_raises_none rfl) hx hy hx)⟩

/-- Settles O32: with x = 15 the result is left in VF, and an operand that is VF reads as the flag. -/
theorem flagRegisterAsOperand : Obligations.FlagRegisterAsOperand := by
  intro r s hr
  refine ⟨?addVF, ?add, ?addVFVF, ?subVF, ?sub, ?subVFVF, ?shrVF, exec_shr_next VF s hr, ?subnVF,
    ?subn, ?subnVFVF, ?shlVF, exec_shl_next VF s hr⟩
  case addVF =>
    exact exec_result_over_flag (p := (·.toNat = _)) (exec_of_raises_none rfl) (BitVec.toNat_add _ _)
  case add =>
    exact exec_flag_and_result (exec_of_raises_none rfl) hr (BitVec.toNat_add _ _)
      (carryFlag_toNat _ _)
  case addVFVF =>
    refine exec_result_over_flag (p := (·.toNat = _)) (exec_of_raises_none rfl) ?_
    rw [BitVec.toNat_add, Nat.two_mul]
  case subVF =>
    exact exec_result_over_flag (p := (·.toNat = _)) (exec_of_raises_none rfl)
      (s.flag_sub_getV_toNat _ _ hr)
  case sub =>
    obtain ⟨t, ht, hw, hresult, hflag⟩ :=
      exec_flag_and_result (exec_of_raises_none (i := .sub r VF) rfl) hr
        (s.getV_sub_flag_toNat (s.getV r) (s.getV VF) hr) (noBorrowFlag_toNat _ _)
    exact ⟨t, ht, hw, hflag, hresult⟩
  case subnVF =>
    exact exec_result_over_flag (p := (·.toNat = _)) (exec_of_raises_none rfl)
      (s.getV_sub_flag_toNat _ _ hr)
  case subn =>
    obtain ⟨t, ht, hw, hresult, hflag⟩ :=
      exec_flag_and_result (exec_of_raises_none (i := .subn r VF) rfl) hr
        (s.flag_sub_getV_toNat (s.getV VF) (s.getV r) hr) (noBorrowFlag_toNat _ _)
    exact ⟨t, ht, hw, hflag, hresult⟩
  case subVFVF | subnVFVF =>
    exact exec_result_over_flag (p := (· = 0)) (exec_of_raises_none rfl) (BitVec.sub_self _)
  case shrVF =>
    intro y
    refine exec_result_over_flag (p := (· = 0)) (exec_of_raises_none rfl) ?_
    rw [State.getV_setV_same, shiftOutLow_shiftRight]
  case shlVF =>
    intro y
    refine exec_result_over_flag (p := (·.toNat = _)) (exec_of_raises_none rfl) ?_
    rw [State.getV_setV_same, shiftOutHigh_shiftLeft_toNat]

/-- Settles O31: V[x] is not VF, so the flag write does not reach the value that is shifted. -/
theorem shiftsInPlace : Obligations.ShiftsInPlace := fun _ y s hx =>
  ⟨exists_next_writesV_iff.1 (exec_shr_next y s hx), exists_next_writesV_iff.1 (exec_shl_next y s hx)⟩

/-- Settles O27: the three write V[x] alone. -/
theorem loadAddMove : Obligations.LoadAddMove := fun _ y nn s =>
  ⟨exec_setV_next (p := (· = nn)) (exec_of_raises_none rfl) rfl,
    exec_setV_next (p := (·.toNat = _)) (exec_of_raises_none rfl) (BitVec.toNat_add _ _),
    exec_setV_next (p := (· = s.getV y)) (exec_of_raises_none rfl) rfl⟩

/-- Settles O28: one rule for the three, with the operation on each bit. -/
theorem logicBitByBit : Obligations.LogicBitByBit := fun _ _ _ =>
  ⟨exec_bitwise_next or (exec_of_raises_none rfl) fun _ => BitVec.getLsbD_or,
    exec_bitwise_next and (exec_of_raises_none rfl) fun _ => BitVec.getLsbD_and,
    exec_bitwise_next xor (exec_of_raises_none rfl) fun _ => BitVec.getLsbD_xor⟩

/-- Settles O33: the same rule, with the byte at the port and the mask. -/
theorem randomUnderMask : Obligations.RandomUnderMask := by
  intro x nn s
  obtain ⟨t, ht, hframe, hregs, hbits, hpc⟩ :=
    exec_bitwise_next and (exec_of_raises_none (i := .rnd x nn) (s := s) rfl)
      fun _ => BitVec.getLsbD_and
  exact ⟨t, ht, hframe, hregs, hpc, hbits⟩

end Sys2Proof.Machine
end

section
/-! The index register and the memory at I (43_index_memory.md R140 to R146): the rule of the
instructions that write I, the rule of those that store a span at I, and `LDM`. -/

namespace Sys2Proof.Machine

/-! ### Frames -/

theorem State.setI_frame (s : State) (w : Word) : OnlyChanges [.i] s (s.setI w) := by
  intro p hp
  cases p with
  | i => simp at hp
  | _ => simp [SamePart]

theorem State.setRegs_frame (s : State) (vs : Vector Byte 16) : OnlyChanges [.v] s (s.setRegs vs) := by
  intro p hp
  cases p with
  | v => simp at hp
  | _ => simp [SamePart]

theorem OnlyChanges.advance {p : Part} {s t : State} (h : OnlyChanges [p] s t) :
    OnlyChanges [p, .pc] s t.advance :=
  (h.mono (by simp)).trans ((t.setPc_frame _).mono (by simp))

/-! ### I written alone -/

/-- The rule of an instruction that writes `w` to I. -/
theorem exec_setI_next {i : Instr} {s : State} {w : Word} {k : Nat}
    (he : exec i s = .next (s.setI w).advance) (hk : w.toNat = k) :
    ∃ t, exec i s = .next t ∧ OnlyChanges [.i, .pc] s t ∧ t.i.toNat = k ∧ PcPlus 2 s t :=
  ⟨_, he, (s.setI_frame w).advance, hk, pcPlus_of_pc_eq_add (w := 2) rfl⟩

theorem glyphAddr_toNat (b : Byte) : (glyphAddr b).toNat = 5 * b.toNat := by
  have hprod : (glyphAddr b).toNat = 5 * (zext8 b).toNat % 65536 := BitVec.toNat_mul _ _
  rw [hprod, zext8_toNat, Nat.mod_eq_of_lt (by omega)]

/-- Settles O34: both write I alone; the product stays below 65536. -/
theorem indexLoadAndGlyph : Obligations.IndexLoadAndGlyph := fun _ nnn _ =>
  ⟨exec_setI_next (exec_of_raises_none rfl) (zext12_toNat nnn),
    exec_setI_next (exec_of_raises_none rfl) (glyphAddr_toNat _)⟩

/-- Settles O35: the same rule, with the 16-bit sum. -/
theorem addToIndexWraps : Obligations.AddToIndexWraps := fun _ _ =>
  exec_setI_next (exec_of_raises_none rfl) (by rw [BitVec.toNat_add, zext8_toNat])

/-! ### A span stored at I -/

/-- The rule of an instruction that stores `bytes` at I: byte `j` at I + j, every other byte kept. -/
theorem exec_setSpan_next {i : Instr} {s : State} {bytes : List Byte}
    (he : exec i s = .next (s.setMem (s.mem.setSpan s.baseAddr bytes)).advance) :
    ∃ t, exec i s = .next t ∧ OnlyChanges [.memory, .pc] s t ∧ PcPlus 2 s t ∧
      (∀ j (h : j < bytes.length), t.mem.get (s.i.toNat + j) = bytes[j]) ∧
      ∀ a, a < s.i.toNat ∨ s.i.toNat + bytes.length ≤ a → t.mem.get a = s.mem.get a :=
  ⟨_, he, (s.setMem_frame _).advance, pcPlus_of_pc_eq_add (w := 2) rfl,
    Memory.get_setSpan_inside bytes s.mem _, fun _ => Memory.get_setSpan_outside bytes s.mem⟩

/-- The digits as numbers: each fits a byte. -/
theorem bcdDigits_toNat (b : Byte) : (bcdDigits b)[0].toNat = b.toNat / 100 ∧
    (bcdDigits b)[1].toNat = b.toNat / 10 % 10 ∧ (bcdDigits b)[2].toNat = b.toNat % 10 :=
  ⟨Nat.mod_eq_of_lt (by omega), Nat.mod_eq_of_lt (by omega), Nat.mod_eq_of_lt (by omega)⟩

/-- Settles O36: split at the check of I + 2; the stored span is the three digits. -/
theorem bcdStoresDigits : Obligations.BcdStoresDigits := by
  intro x s
  constructor
  · intro hfits
    obtain ⟨t, ht, hframe, hpc, hstored, hkept⟩ := exec_setSpan_next
      (exec_of_raises_none (i := .bcd x) (s := s) (if_neg (Nat.not_le.2 hfits)))
    rw [length_bcdDigits] at hkept
    obtain ⟨hhundreds, htens, hones⟩ := bcdDigits_toNat (s.getV x)
    exact ⟨t, ht, hframe, hpc, (congrArg BitVec.toNat (hstored 0 (by simp))).trans hhundreds,
      (congrArg BitVec.toNat (hstored 1 (by simp))).trans htens,
      (congrArg BitVec.toNat (hstored 2 (by simp))).trans hones, hkept⟩
  · intro hout
    exact faultsWith_of_raises (if_pos hout)

/-- Settles O37: split at the check of I + x; byte `r` of the stored span is V[r]. -/
theorem stmStoresRange : Obligations.StmStoresRange := by
  intro x s
  constructor
  · intro hfits
    obtain ⟨t, ht, hframe, hpc, hstored, hkept⟩ := exec_setSpan_next
      (exec_of_raises_none (i := .stm x) (s := s) (if_neg (Nat.not_le.2 hfits)))
    rw [State.length_vRange] at hkept
    refine ⟨t, ht, hframe, hpc, fun r hr => ?_, hkept⟩
    rw [hstored r.val (by simpa [Nat.lt_succ_iff] using hr), State.getElem_vRange]
  · intro hout
    exact faultsWith_of_raises (if_pos hout)

/-! ### A range loaded from I -/

theorem effect_ldm_frame (x : Reg) (s : State) : OnlyChanges [.v, .pc] s (effect (.ldm x) s) :=
  (s.setRegs_frame _).advance

theorem effect_ldm_getV (x r : Reg) (s : State) : (effect (.ldm x) s).getV r =
    if r ≤ x then s.mem.get (s.i.toNat + r.val) else s.getV r :=
  (State.getV_setPc _ r _).trans (s.getV_loadedRegs x r s.baseAddr)

/-- Settles O38: split at the check of I + x; the loaded registers are those up to x. -/
theorem ldmLoadsRange : Obligations.LdmLoadsRange := fun x s =>
  ⟨fun hfits => ⟨_, exec_of_raises_none (if_neg (Nat.not_le.2 hfits)), effect_ldm_frame x s,
      effect_pcRule (.ldm x) s, fun r hr => (effect_ldm_getV x r s).trans (if_pos hr),
      fun r hr => (effect_ldm_getV x r s).trans (if_neg (not_le_of_gt hr))⟩,
    fun hout => faultsWith_of_raises (if_pos hout)⟩

/-- Settles O39: `LDM` reads the span that `STM` stored, because neither writes I. -/
theorem ldmUndoesStm : Obligations.LdmUndoesStm := by
  intro x s vs hfits
  obtain ⟨t, ht, hstm, -, hstored, -⟩ := (stmStoresRange x s).1 hfits
  have hti : (t.setRegs vs).i = s.i := hstm .i (by simp)
  obtain ⟨u, hu, hldm, -, hloaded, -⟩ := (ldmLoadsRange x (t.setRegs vs)).1 (hti.symm ▸ hfits)
  have hui : u.i = (t.setRegs vs).i := hldm .i (by simp)
  refine ⟨t, u, ht, hu, hui.trans hti, fun r hr => ?_⟩
  rw [hloaded r hr, hti]
  exact hstored r hr

end Sys2Proof.Machine
end

section
/-! The display (44_display.md R150 to R153): the sprite of `DRW` as the cells that it lights, and the
rules of `CLS` and `DRW` over those cells. -/

namespace Sys2Proof.Machine

/-! ### The cells under the sprite -/

theorem wrapX_eq_iff {k : Nat} {px : Fin 64} : wrapX k = px ↔ k % 64 = px.val := Fin.ext_iff

theorem wrapY_eq_iff {k : Nat} {py : Fin 32} : wrapY k = py ↔ k % 32 = py.val := Fin.ext_iff

/-- The sprite that `drawBlit` reads lights the cells of `SpriteLights`. -/
theorem spriteAt_getSpan_iff (s : State) (x y : Reg) (n : Imm4) (px : Fin 64) (py : Fin 32) :
    spriteAt (s.getV x).toNat (s.getV y).toNat (s.mem.getSpan s.baseAddr n.toNat) px py = true ↔
      SpriteLights s x y n px py := by
  rw [spriteAt_iff, Memory.length_getSpan]
  refine exists_congr fun r => exists_congr fun c => and_congr_right fun hr => ?_
  have hrow : (s.mem.getSpan s.baseAddr n.toNat).getD r 0 = s.mem.get (s.i.toNat + r) := by
    rw [List.getD_eq_getElem _ _ (by simpa using hr), Memory.getElem_getSpan, State.baseAddr]
  rw [hrow, wrapX_eq_iff, wrapY_eq_iff, spriteBit]

/-- Every sprite has at most 15 rows, so its rows fall on distinct rows of the screen (R152 (d)). -/
theorem length_sprite_le (s : State) (n : Imm4) :
    (s.mem.getSpan s.baseAddr n.toNat).length ≤ 32 := by
  rw [Memory.length_getSpan]
  omega

theorem drawBlit_cell_of_lights {s : State} {x y : Reg} {n : Imm4} {px : Fin 64} {py : Fin 32}
    (h : SpriteLights s x y n px py) :
    (s.drawBlit x y n).1.cell px py = !Framebuffer.cell s.fb px py := by
  rw [State.drawBlit, blit_cell _ _ _ _ (length_sprite_le s n), (spriteAt_getSpan_iff ..).2 h,
    Bool.xor_true]

theorem drawBlit_cell_of_not_lights {s : State} {x y : Reg} {n : Imm4} {px : Fin 64} {py : Fin 32}
    (h : ¬ SpriteLights s x y n px py) :
    (s.drawBlit x y n).1.cell px py = Framebuffer.cell s.fb px py := by
  rw [State.drawBlit, blit_cell _ _ _ _ (length_sprite_le s n),
    Bool.eq_false_iff.2 (mt (spriteAt_getSpan_iff ..).1 h), Bool.xor_false]

theorem drawBlit_flag_iff (s : State) (x y : Reg) (n : Imm4) : (s.drawBlit x y n).2 = true ↔
    ∃ px py, SpriteLights s x y n px py ∧ Framebuffer.cell s.fb px py = true := by
  simp only [State.drawBlit, blit_flag _ _ _ _ (length_sprite_le s n), spriteAt_getSpan_iff]

/-- The sprite depends on V[x], V[y], I and the memory alone. -/
theorem spriteLights_congr {s t : State} {x y : Reg} (n : Imm4) (hx : t.getV x = s.getV x)
    (hy : t.getV y = s.getV y) (hi : t.i = s.i) (hmem : ∀ a, t.mem.get a = s.mem.get a)
    (px : Fin 64) (py : Fin 32) : SpriteLights t x y n px py ↔ SpriteLights s x y n px py := by
  simp only [SpriteLights, hx, hy, hi, hmem]

/-! ### The two instructions -/

theorem State.redrawWith_frame (s : State) (fb : Framebuffer) :
    OnlyChanges [.cells, .redraw] s (s.redrawWith fb) := by
  intro p hp
  cases p with
  | cells | redraw => simp at hp
  | _ => simp [SamePart]

/-- Settles O40: the framebuffer is replaced by the blank one, whatever it was. -/
theorem clsClearsScreen : Obligations.ClsClearsScreen := fun s =>
  ⟨_, exec_of_raises_none rfl,
    ((s.redrawWith_frame _).mono (by simp)).trans ((State.setPc_frame _ _).mono (by simp)),
    Framebuffer.cell_blank, rfl, effect_pcRule .cls s⟩

theorem effect_drw_frame (x y : Reg) (n : Imm4) (s : State) :
    OnlyChanges [.v, .cells, .redraw, .pc] s (effect (.drw x y n) s) :=
  (((s.redrawWith_frame _).mono (by simp)).trans ((State.setV_frame _ VF _).mono (by simp))).trans
    ((State.setPc_frame _ _).mono (by simp))

theorem effect_drw_getV_flag (x y : Reg) (n : Imm4) (s : State) :
    (effect (.drw x y n) s).getV VF = flagByte (s.drawBlit x y n).2 :=
  State.getV_setV_same _ _ _

theorem exec_drw_next (x y : Reg) {n : Imm4} {s : State}
    (h : n = 0 ∨ s.i.toNat + n.toNat - 1 < 4096) :
    exec (.drw x y n) s = .next (effect (.drw x y n) s) := by
  refine exec_of_raises_none (if_neg ?_)
  rintro ⟨hrows, hout⟩
  obtain rfl | hlast := h
  · exact Nat.lt_irrefl 0 hrows
  · omega

/-- Settles O41: split at the check of the last row; the cells and the flag are those of the blit. -/
theorem drwXorsSprite : Obligations.DrwXorsSprite := by
  intro x y n s
  constructor
  · intro hfits
    have hflag := effect_drw_getV_flag x y n s
    refine ⟨_, exec_drw_next x y hfits, effect_drw_frame x y n s,
      fun r hr => effect_getV s (List.ne_of_not_mem_cons hr), fun _ _ => drawBlit_cell_of_lights,
      fun _ _ => drawBlit_cell_of_not_lights, fun hlit => ?_, fun hdark => ?_, rfl,
      effect_pcRule (.drw x y n) s⟩
    · rw [hflag, (drawBlit_flag_iff s x y n).2 hlit]
      rfl
    · rw [hflag, Bool.eq_false_iff.2 (mt (drawBlit_flag_iff s x y n).1 hdark)]
      rfl
  · intro hn hout
    exact faultsWith_of_raises
      (if_pos ⟨Nat.pos_of_ne_zero fun h0 => hn (BitVec.eq_of_toNat_eq h0), hout⟩)

/-- Settles O42: the first drawing keeps what the sprite depends on, so the second inverts the same
cells again, and finds lit exactly those that were dark. -/
theorem drawingTwiceRestoresScreen : Obligations.DrawingTwiceRestoresScreen := by
  intro x y n s hx hy hfits
  obtain ⟨t, ht, hframe, hregs, hflip, hkeep, -, -, -, -⟩ := (drwXorsSprite x y n s).1 hfits
  have hi : t.i = s.i := hframe .i (by simp)
  have hsame := spriteLights_congr n (hregs x (by simpa using hx)) (hregs y (by simpa using hy)) hi
    (hframe .memory (by simp))
  obtain ⟨u, hu, -, -, hflip', hkeep', hone, hzero, -, -⟩ :=
    (drwXorsSprite x y n t).1 (hi.symm ▸ hfits)
  refine ⟨t, u, ht, hu, fun px py => ?_, ?_⟩
  · by_cases hl : SpriteLights s x y n px py
    · rw [hflip' px py ((hsame px py).2 hl), hflip px py hl, Bool.not_not]
    · rw [hkeep' px py (mt (hsame px py).1 hl), hkeep px py hl]
  · have hcollides : (∃ px py, SpriteLights t x y n px py ∧ Framebuffer.cell t.fb px py = true) ↔
        ∃ px py, SpriteLights s x y n px py ∧ Framebuffer.cell s.fb px py = false := by
      refine exists_congr fun px => exists_congr fun py => ?_
      rw [hsame]
      refine and_congr_right fun hl => ?_
      rw [hflip px py hl, Bool.not_eq_true']
    rw [← hcollides]
    refine ⟨fun hvf => ?_, hone⟩
    by_contra hno
    rw [hzero hno] at hvf
    exact absurd hvf (by decide)

end Sys2Proof.Machine
end

section
/-! Keys and timers (45_keys_timers.md R160 to R166): the two key skips and their range check, `WAITK`
with the key that `KEY_SELECT` reports, the three timer moves, and the event `SetKeys`. -/

namespace Sys2Proof.Machine

/-! ### The key skips -/

/-- Settles O43: split at the range check that both skips share; below 16 each tests the key's level. -/
theorem keySkips : Obligations.KeySkips := fun _ _ =>
  ⟨fun hkey =>
    ⟨exec_skipIf_next (exec_of_raises_none (if_neg (Nat.not_le.2 hkey))) beq_iff_eq,
      exec_skipIf_next (exec_of_raises_none (if_neg (Nat.not_le.2 hkey))) beq_iff_eq⟩,
    fun hout => ⟨faultsWith_of_raises (if_pos hout), faultsWith_of_raises (if_pos hout)⟩⟩

/-! ### `WAITK` -/

theorem keys_eq_zero_iff {keys : BitVec 16} :
    keys = 0 ↔ ∀ k : Fin 16, keys.getLsbD k.val = false := by
  constructor
  · rintro rfl k
    exact BitVec.getLsbD_zero
  · intro h
    refine BitVec.eq_of_getLsbD_eq fun k hk => ?_
    exact (h ⟨k, hk⟩).trans BitVec.getLsbD_zero.symm

/-- A key number fits a byte. -/
theorem keyByte_toNat (k : Fin 16) : (BitVec.ofNat 8 k.val).toNat = k.val :=
  Nat.mod_eq_of_lt (by omega)

/-- Settles O44: no key pressed is the snapshot 0, in which `WAITK` keeps the state; from any other
snapshot `KEY_SELECT` names a pressed key. -/
theorem waitForKey : Obligations.WaitForKey := by
  intro x s
  have hexec : exec (.waitk x) s = .next (effect (.waitk x) s) := exec_of_raises_none rfl
  obtain ⟨hnone, hwait⟩ | ⟨hsome, hload⟩ := effect_waitk_cases x s
  · refine ⟨fun _ => hexec.trans (congrArg _ hwait), fun ⟨k, hk⟩ => ?_⟩
    exact absurd (keys_eq_zero_iff.1 hnone k) (ne_false_of_eq_true hk)
  · refine ⟨fun h => absurd (keys_eq_zero_iff.2 h) hsome, fun _ => ?_⟩
    obtain ⟨t, ht, hframe, hregs, hval, hpc⟩ := exec_setV_next
      (p := fun b => b.toNat = (keySelect s.key).val) (hexec.trans (congrArg _ hload))
      (keyByte_toNat _)
    exact ⟨t, ht, hframe, hregs, hpc, keySelect s.key, keySelect_pressed hsome, hval⟩

/-! ### The timers -/

theorem State.setDt_frame (s : State) (b : Byte) : OnlyChanges [.dt] s (s.setDt b) := by
  intro p hp
  cases p with
  | dt => simp at hp
  | _ => simp [SamePart]

theorem State.setSt_frame (s : State) (b : Byte) : OnlyChanges [.st] s (s.setSt b) := by
  intro p hp
  cases p with
  | st => simp at hp
  | _ => simp [SamePart]

/-- Settles O45: `GETDT` writes one register, the other two one timer each. -/
theorem timerAccess : Obligations.TimerAccess := fun x s =>
  ⟨exec_setV_next (p := (· = s.dt)) (exec_of_raises_none rfl) rfl,
    ⟨_, exec_of_raises_none rfl, (s.setDt_frame _).advance, rfl, effect_pcRule (.setdt x) s⟩,
    ⟨_, exec_of_raises_none rfl, (s.setSt_frame _).advance, rfl, effect_pcRule (.setst x) s⟩⟩

/-! ### `SetKeys` -/

/-- Sharper than `State.setKeys_frame`: of the host's parts, the event writes KEY and the port alone. -/
theorem State.setKeys_key_frame (s : State) (k : BitVec 16) :
    OnlyChanges [.key, .result] s (s.setKeys k) := by
  intro p hp
  cases p with
  | key | result => simp at hp
  | _ => simp [SamePart]

/-- Settles O47: the event replaces the snapshot whole, so bit for bit. -/
theorem setKeysReplacesSnapshot : Obligations.SetKeysReplacesSnapshot := fun k s hfailed =>
  ⟨s.setKeys k, respond_setKeys k hfailed, s.setKeys_key_frame k, fun _ => rfl⟩

end Sys2Proof.Machine
end

section
/-! Fatal conditions and the events of the host (60_exceptions.md R170 to R189): what a fatal condition
changes, the two timers, the decode warning, and the events of a machine that is halted or runs safely. -/

namespace Sys2Proof.Machine

/-! ### The table of fatal conditions (R170, R180) -/

theorem effect_keeps_latch_result {i : Instr} {s : State} (h : Raises i s = none) :
    SamePart .latch s (effect i s) ∧ SamePart .result s (effect i s) := by
  obtain ⟨hhalt, hinfo, hpc, hop, hresult, -⟩ | ⟨c, info, -, hr⟩ :=
    exec_cases (exec_of_raises_none h)
  · exact ⟨⟨hhalt, hinfo, hpc, hop⟩, hresult⟩
  · rw [h] at hr
    cases hr

/-- Settles O16: what raises nothing answers its effect, and what raises takes its condition. -/
theorem fatalConditionsExactly : Obligations.FatalConditionsExactly := fun i s =>
  ⟨fun h => ⟨effect i s, exec_of_raises_none h, effect_keeps_latch_result h⟩,
    fun _ _ h => faultsWith_of_raises h⟩

/-! ### A step that raises (R171, R178) -/

/-- Every fatal condition of a step is one `raise` from the state that the step starts from, with the
fetched word, which is 0 where the fetch failed. -/
theorem step_fatal {s t : State} {c : FatalCondition} (hrun : s.halt = .running)
    (h : step s = .next t) (hhalt : t.halt = .fatal c) :
    ∃ info, t = (s.nextDraw.beginStep (Config.rand s.randIdx)).raise c info (s.fetch.getD 0) := by
  obtain ⟨b, rfl, ⟨hf, rfl⟩ | ⟨op, hf, ⟨i, hd, he⟩ | ⟨e, -, rfl⟩⟩⟩ := step_cases h
  · cases hhalt
    exact ⟨_, by rw [hf]; rfl⟩
  · obtain ⟨hr, rfl⟩ | ⟨c', info, -, rfl⟩ := exec_next_cases he
    · obtain ⟨⟨hkept, -⟩, -⟩ := effect_keeps_latch_result hr
      cases hhalt.symm.trans (hkept.trans hrun)
    · cases hhalt
      obtain ⟨-, hword⟩ := encodeOfDecode op i hd
      exact ⟨info, by rw [hf, hword]; rfl⟩
  · cases hhalt.symm.trans hrun

theorem State.raise_beginStep_nextDraw_frame (s : State) (rand : Byte) (c : FatalCondition)
    (info : BitVec 17) (op : Word) :
    OnlyChanges [.latch, .result, .redraw, .rand] s
      ((s.nextDraw.beginStep rand).raise c info op) := by
  intro p hp
  cases p with
  | latch | result | redraw | rand => simp at hp
  | _ => simp [SamePart]

/-- Settles O15: `raise` writes the latch, its record and the result, the start of the step the rest. -/
theorem faultingStepIsPrecise : Obligations.FaultingStepIsPrecise := by
  intro s t c hrun h hhalt
  obtain ⟨info, rfl⟩ := step_fatal hrun h hhalt
  exact ⟨s.raise_beginStep_nextDraw_frame _ c info _, rfl, rfl, rfl, rfl⟩

theorem step_unfetched {s : State} (h : s.halt = .running) (hf : s.fetch = none) :
    step s = .next (s.nextDraw.beginStep (Config.rand s.randIdx)).fetchFault :=
  stepWith_unfetched (s := s.nextDraw) _ (by simpa using h) (by simpa using hf)

/-- Settles O11: from 4095 on the fetch fails, and PC fits the width of FAULT_INFO. -/
theorem fetchBeyondMemoryFaults : Obligations.FetchBeyondMemoryFaults := by
  intro s hrun hpc
  have hinfo : (s.pc.setWidth 17).toNat = s.pc.toNat := BitVec.toNat_setWidth_of_le (by decide)
  exact ⟨_, step_unfetched hrun (State.fetch_of_le_pc hpc), s.raise_beginStep_nextDraw_frame _ _ _ _,
    rfl, rfl, hinfo, rfl, rfl, rfl⟩

/-! ### `Tick` (R183, R184) -/

theorem countDown_toNat (b : Byte) : (countDown b).toNat = b.toNat - 1 := by
  rw [countDown]
  split
  · bv_omega
  · omega

/-- Sharper than `State.tick_frame`: the event keeps KEY. -/
theorem State.tick_timers_frame (s : State) : OnlyChanges [.dt, .st, .tone, .result] s s.tick := by
  intro p hp
  cases p with
  | dt | st | tone | result => simp at hp
  | _ => simp [SamePart]

/-- Settles O46: each timer counts down by itself, and the tone is read before. -/
theorem tickCountsDown : Obligations.TickCountsDown := fun s hfailed =>
  ⟨s.tick, respond_tick hfailed, s.tick_timers_frame, countDown_toNat s.dt, countDown_toNat s.st,
    decide_eq_true_iff⟩

/-! ### The decode warning (R177) -/

theorem StepResult.expire_eq_self {r : StepResult} (h : ∀ pc op, r ≠ .warn pc op) :
    r.expire = r := by
  cases r with
  | warn pc op => exact absurd rfl (h pc op)
  | none | ok | fault => rfl

/-- The rule of an event that lets a warning expire. -/
theorem warning_gone_of_expire {s t : State} (h : t.stepResult = s.stepResult.expire) :
    ((∃ pc op, s.stepResult = .warn pc op) → t.stepResult = .none) ∧
      ((∀ pc op, s.stepResult ≠ .warn pc op) → SamePart .result s t) := by
  constructor
  · rintro ⟨pc, op, hwarn⟩
    rw [h, hwarn]
    rfl
  · intro hother
    exact h.trans (StepResult.expire_eq_self hother)

/-- Settles O48: both events let a warning expire. -/
theorem warningGoneAtNextEvent : Obligations.WarningGoneAtNextEvent := by
  rintro e s (rfl | ⟨k, rfl⟩) hfailed
  · exact ⟨s.tick, respond_tick hfailed, warning_gone_of_expire rfl⟩
  · exact ⟨s.setKeys k, respond_setKeys k hfailed, warning_gone_of_expire rfl⟩

/-! ### The events of a halted machine (R189) -/

theorem State.stepResult_update_frame (s : State) (r : StepResult) :
    OnlyChanges [.result] s { s with stepResult := r } := by
  intro p hp
  cases p with
  | result => simp at hp
  | _ => simp [SamePart, State.getV]

theorem respond_step_halted {s : State} {c : FatalCondition} (rand : Byte) (h : s.halt = .fatal c)
    (hfailed : ¬ s.ResetFailed) :
    respond (.step rand) s = .next { s with stepResult := .fault c } := by
  rw [respond_step rand hfailed, State.afterStep_halted rand h]

theorem State.load_of_length_le {font : Vector Byte 80} {program : List Byte} (s : State)
    (h : program.length ≤ Config.progMax) : s.load font program = s.loaded font program :=
  if_neg (Nat.not_lt.2 h)

/-- Settles O52: a halt by a step is not that of a failed `Reset`, so every event is answered as the
rule of that event says. -/
theorem haltedMachineStillAnswersHost : Obligations.HaltedMachineStillAnswersHost := by
  intro s c hhalt hc
  have hfailed : ¬ s.ResetFailed := fun h => hc (Halt.fatal.inj (hhalt.symm.trans h))
  refine ⟨fun rand => ⟨stepWith_halted rand hhalt, _, respond_step_halted rand hhalt hfailed,
    s.stepResult_update_frame _, rfl⟩, ?_, fun k => ⟨_, respond_setKeys k hfailed, rfl⟩,
    fun font program hlen => ⟨s.load font program, respond_reset font program s, ?_⟩⟩
  · exact ⟨_, respond_tick hfailed, countDown_toNat s.dt, countDown_toNat s.st⟩
  · rw [s.load_of_length_le hlen]
    rfl

/-! ### Safe runs (R179, R189) -/

/-- A safe run is answered and ends running, whatever its events are. -/
theorem respondAll_running_of_safeRun {events : List Event} {s : State} (h : SafeRun events s) :
    ∃ t, respondAll events s = .next t ∧ t.Running := by
  induction events generalizing s with
  | nil => exact ⟨s, rfl, h⟩
  | cons e rest ih =>
    obtain ⟨-, u, hu, hrest⟩ := h
    rw [respondAll_cons_of_next rest hu]
    exact ih hrest

/-- Nothing but a `Reset` leaves a halt, so what runs at the end ran at the start. -/
theorem running_of_respondAll_running {events : List Event} {s t : State}
    (he : ∀ e ∈ events, e.isReset = false) (h : respondAll events s = .next t) (ht : t.Running) :
    s.Running := by
  by_contra hhalt
  exact hhalt ((halt_eq_of_hostParts (respondAll_halted_frame hhalt he h)).symm.trans ht)

theorem safeRun_of_respondAll_running {events : List Event} {s t : State}
    (he : ∀ e ∈ events, e.isReset = false) (h : respondAll events s = .next t) (ht : t.Running) :
    SafeRun events s := by
  induction events generalizing s with
  | nil => exact running_of_respondAll_running he h ht
  | cons e rest ih =>
    obtain ⟨u, hu, hut⟩ := respondAll_cons_next h
    exact ⟨running_of_respondAll_running he h ht, u, hu, ih (List.forall_mem_cons.1 he).2 hut⟩

/-- Settles O53: the two directions by induction over the events. -/
theorem safeRunIffRunningAtEnd : Obligations.SafeRunIffRunningAtEnd := fun _ _ he =>
  ⟨respondAll_running_of_safeRun, fun ⟨_, h, ht⟩ => safeRun_of_respondAll_running he h ht⟩

end Sys2Proof.Machine
end

section
/-! Reset, TERMINAL states and what follows a failed `Reset` (70_reset_and_hazards.md R200, R201, R211):
the memory image that a program is loaded into, the jump to PC, and the events that are left. -/

namespace Sys2Proof.Machine

/-! ### The memory after a successful `Reset` (R200) -/

theorem Memory.background_of_le {a : Nat} (h : 80 ≤ a) : Memory.background a = 0 :=
  List.getD_eq_default Memory.defaultFont 0 h

/-- The glyph table ends below the program, so the second span store leaves it. -/
theorem State.loaded_get_glyph (s : State) (font : Vector Byte 80) (program : List Byte) {a : Nat}
    (h : a < 80) : (s.loaded font program).mem.get a = font[a] := by
  have hlen : a < font.toList.length := by simpa using h
  have hbelow : a < Config.progBase := by rw [Config.progBase]; omega
  have hglyph := Memory.get_setSpan_inside font.toList [] 0 a hlen
  rw [Nat.zero_add, Vector.getElem_toList] at hglyph
  exact (Memory.get_setSpan_outside program _ (.inl hbelow)).trans hglyph

theorem State.loaded_get_program (s : State) (font : Vector Byte 80) (program : List Byte) {a : Nat}
    (h : a < program.length) : (s.loaded font program).mem.get (512 + a) = program[a] :=
  Memory.get_setSpan_inside program _ Config.progBase a h

/-- Between the two spans and behind the program nothing is stored. -/
theorem State.loaded_get_zero (s : State) (font : Vector Byte 80) (program : List Byte) {a : Nat}
    (hglyphs : 80 ≤ a) (hprogram : a < 512 ∨ 512 + program.length ≤ a) :
    (s.loaded font program).mem.get a = 0 := by
  have hbehind : 0 + font.toList.length ≤ a := by simpa using hglyphs
  have hkept := Memory.get_setSpan_outside font.toList [] (.inr hbehind)
  exact ((Memory.get_setSpan_outside program _ hprogram).trans hkept).trans
    (Memory.background_of_le hglyphs)

/-! ### The registers after a successful `Reset` (10_state.md R34) -/

theorem State.loaded_getV (s : State) (font : Vector Byte 80) (program : List Byte) (r : Reg) :
    (s.loaded font program).getV r = 0 :=
  Vector.getElem_replicate r.isLt

theorem State.loaded_stk (s : State) (font : Vector Byte 80) (program : List Byte) (k : Fin 16) :
    (s.loaded font program).stk[k.val] = 0 :=
  Vector.getElem_replicate k.isLt

theorem State.loaded_pressed (s : State) (font : Vector Byte 80) (program : List Byte) (k : Nat) :
    (s.loaded font program).pressed k = false :=
  BitVec.getLsbD_zero

/-! ### A `Reset` that fails (60_exceptions.md R176) -/

theorem State.load_of_lt_length {font : Vector Byte 80} {program : List Byte} (s : State)
    (h : Config.progMax < program.length) : s.load font program = s.loadFailed program :=
  if_pos h

theorem State.loadFailed_faultInfo_toNat (s : State) (program : List Byte) :
    (s.loadFailed program).faultInfo.toNat = min program.length 131071 :=
  Nat.mod_eq_of_lt (by omega)

/-- Settles O49: split at the length; the memory image goes by where an address lies, and the registers
have their reset values. -/
theorem resetLoadsProgram : Obligations.ResetLoadsProgram := by
  intro font program s
  constructor
  · intro hlen
    have hload : respond (.reset font program) s = .next (s.loaded font program) := by
      rw [respond_reset, s.load_of_length_le hlen]
    exact ⟨_, hload, fun _ => s.loaded_get_glyph font program,
      fun _ hglyphs hbelow => s.loaded_get_zero font program hglyphs (.inl hbelow),
      fun _ => s.loaded_get_program font program,
      fun _ hbehind _ => s.loaded_get_zero font program (by omega) (.inr hbehind),
      rfl, rfl, s.loaded_getV font program, rfl, rfl, rfl, s.loaded_stk font program,
      Framebuffer.cell_blank, fun k => s.loaded_pressed font program k.val, rfl, rfl, rfl, rfl, rfl⟩
  · intro hlen
    have hload : respond (.reset font program) s = .next (s.loadFailed program) := by
      rw [respond_reset, s.load_of_lt_length hlen]
    exact ⟨_, hload, rfl, s.loadFailed_faultInfo_toNat program, rfl⟩

/-! ### The jump to PC (R211) -/

/-- Every word of class 1 is the jump to its `nnn`, because it is the word that this jump encodes to. -/
theorem decode_jp_of_class {op : Word} (h : (fieldClass op).toNat = 1) :
    decode op = .ok (.jp (fieldNNN op)) := by
  have hword : encode (.jp (fieldNNN op)) = op := packNNN_of_class 1 h
  simpa only [hword] using decodeOfEncode (.jp (fieldNNN op)) rfl

theorem zext12_fieldNNN_toNat (op : Word) : (zext12 (fieldNNN op)).toNat = op.toNat % 4096 := by
  rw [zext12_toNat, fieldNNN, BitVec.extractLsb'_toNat, Nat.shiftRight_zero]

/-- Below 4096 the sum does not carry into the class, so its `nnn` is PC. -/
theorem decode_jumpTo {pc : Word} (h : pc.toNat < 4096) :
    ∃ nnn, decode (0x1000 + pc) = .ok (.jp nnn) ∧ zext12 nnn = pc := by
  have hword : (0x1000 + pc).toNat = 4096 + pc.toNat := by bv_omega
  refine ⟨_, decode_jp_of_class ?_, BitVec.eq_of_toNat_eq ?_⟩
  · rw [fieldClass_toNat, hword]
    omega
  · rw [zext12_fieldNNN_toNat, hword]
    omega

theorem State.beginStep_nextDraw_frame (s : State) (rand : Byte) :
    OnlyChanges [.redraw, .result, .rand] s (s.nextDraw.beginStep rand) := by
  intro p hp
  cases p with
  | redraw | result | rand => simp at hp
  | _ => simp [SamePart]

/-- The jump loads PC with the value that it has, so nothing is left of the step but its start. -/
theorem step_of_terminal {s : State} (h : s.Terminal) :
    step s = .next (s.nextDraw.beginStep (Config.rand s.randIdx)) := by
  obtain ⟨hrun, hfetch⟩ := h
  have hpc : s.pc.toNat ≤ 4094 := s.fetch_isSome_iff.1 (by rw [hfetch]; rfl)
  obtain ⟨nnn, hdec, hstay⟩ := decode_jumpTo (pc := s.pc) (by omega)
  rw [step_decoded hrun hfetch hdec, exec_of_raises_none rfl, effect, hstay]
  rfl

/-- Settles O54: the start of a step keeps the latch, PC and memory, which TERMINAL reads. -/
theorem terminalStateIsFixed : Obligations.TerminalStateIsFixed := fun s h =>
  ⟨_, step_of_terminal h, s.beginStep_nextDraw_frame _, rfl, h⟩

/-! ### After a failed `Reset` (R201) -/

theorem isReset_of_respond_resetFailed {e : Event} {s t : State} (hfailed : s.ResetFailed)
    (h : respond e s = .next t) : e.isReset = true := by
  obtain ⟨font, program, rfl, -⟩ | ⟨hnot, -⟩ := respond_cases h
  · rfl
  · exact absurd hfailed hnot

/-- The first event that is not a `Reset` is not answered, so there is none. -/
theorem eq_nil_of_respondAll_resetFailed {events : List Event} {s t : State}
    (hfailed : s.ResetFailed) (he : ∀ e ∈ events, e.isReset = false)
    (h : respondAll events s = .next t) : events = [] ∧ t = s := by
  cases events with
  | nil => exact ⟨rfl, (Host.Outcome.next.inj h).symm⟩
  | cons e rest =>
    obtain ⟨u, hu, -⟩ := respondAll_cons_next h
    cases (isReset_of_respond_resetFailed hfailed hu).symm.trans (he e List.mem_cons_self)

/-- Settles O58: each event by its own response, and a `Reset` split at the length of its program. -/
theorem onlyResetFollowsFailedReset : Obligations.OnlyResetFollowsFailedReset := by
  intro s hfailed
  refine ⟨fun rand => ⟨stepWith_halted rand hfailed, respond_step_resetFailed rand hfailed⟩,
    respond_tick_resetFailed hfailed, fun k => respond_setKeys_resetFailed k hfailed,
    fun _ he _ h => eq_nil_of_respondAll_resetFailed hfailed he h,
    fun font program => ⟨_, respond_reset font program s, fun hlen => ?_, fun hlen => ?_⟩⟩
  · rw [s.load_of_length_le hlen]
    rfl
  · rw [s.load_of_lt_length hlen]
    rfl

end Sys2Proof.Machine
end
